-- ==== Sys2Proof/Word.lean ====
section
/-! DEFINITION. The machine word and the register index (00_scope.md R3, R4). -/

namespace Sys2Proof

/-- A Word: a 32-bit pattern (R3 `XLEN`, R4). Registers, data words, instruction words, `pc` and
every address are Words. -/
abbrev Word := BitVec 32

/-- The index of one of the 16 general registers (10_state.md R10). -/
abbrev Reg := Fin 16

end Sys2Proof
end

