-- ==== Sys2Proof/Syntax.lean ====
section
/-! DEFINITION. The instructions: one constructor per row of spec/opcode_table.json (30_encoding.md R55). -/

namespace Sys2Proof

/-- An operand that designates a memory word or a target: the absolute and the indexed layout of
30_encoding.md R52. -/
inductive Address where
  /-- Format ABS: the 20-bit unsigned address (R59). -/
  | abs (addr : BitVec 20)
  /-- Format IDX: the index register and the 16-bit signed offset (R60). -/
  | idx (rindex : Reg) (off : BitVec 16)
deriving DecidableEq, Repr

/-- The operand field in the layout that the I and X flags select (R52, R53). -/
inductive Operand where
  /-- Format IMM: the 20-bit signed value (R58). -/
  | imm (value : BitVec 20)
  | mem (address : Address)
deriving DecidableEq, Repr

/-- The condition selector of BRANCH and CALL (R57). The selectors 7 to 15 decode like any other and
fault when executed (R62). -/
inductive Cond where
  | nc | eq | ne | gt | ge | lt | le
  /-- A selector in 7..15. -/
  | invalid (selector : BitVec 4)
deriving DecidableEq, Repr

/-- The instructions. STORE, BRANCH, CALL and POP take any operand here: their immediate forms are words
that decode and fault when executed (R62). -/
inductive Instr where
  | illop
  | nop
  | load (rd : Reg) (src : Operand)
  | store (rs : Reg) (dst : Operand)
  | add (rd : Reg) (src : Operand)
  | sub (rd : Reg) (src : Operand)
  | branch (cond : Cond) (target : Operand)
  | call (cond : Cond) (target : Operand)
  | ret
  | push (src : Operand)
  | pop (dst : Operand)
  | halt
  /-- Row UNKNOWN_12_15: an opcode value 12..15 (45_system.md R143). -/
  | unknown12to15 (op : BitVec 6)
  /-- Row UNKNOWN_16_31: an opcode value 16..31 (R143). -/
  | unknown16to31 (op : BitVec 6)
  /-- Row UNKNOWN_32_63: an opcode value 32..63 (R143). -/
  | unknown32to63 (op : BitVec 6)
deriving DecidableEq, Repr

end Sys2Proof
end

