-- ==== Sys2Proof/WellFormed.lean ====
section
/-! DEFINITION. Which terms of `Instr` an instruction word can stand for: the fields whose type is wider
than the range the encoding gives them are in that range. -/

namespace Sys2Proof

/-- An invalid selector is one of 7..15 (30_encoding.md R57). -/
def Cond.wellFormed : Cond → Bool
  | .invalid sel => decide (7 ≤ sel.toNat)
  | .nc | .eq | .ne | .gt | .ge | .lt | .le => true

/-- The condition of BRANCH and CALL is well formed, and the opcode value that an unknown instruction
carries lies in its row's range (R55, R57). Every other field's type is exact. -/
def Instr.wellFormed : Instr → Bool
  | .branch cond _ => cond.wellFormed
  | .call cond _ => cond.wellFormed
  | .unknown12to15 op => decide (12 ≤ op.toNat ∧ op.toNat ≤ 15)
  | .unknown16to31 op => decide (16 ≤ op.toNat ∧ op.toNat ≤ 31)
  | .unknown32to63 op => decide (32 ≤ op.toNat)
  | .illop | .nop | .load _ _ | .store _ _ | .add _ _ | .sub _ _ | .ret | .push _ | .pop _ | .halt => true

end Sys2Proof
end

