-- ==== Sys2Proof/Decode.lean ====
section
/-! DEFINITION. The decoder and the encoder (30_encoding.md R50 to R67). Field positions, opcode numbers
and selector numbers are the spec's own decisions D1 to D5 (notes/assumptions/11.md). -/

namespace Sys2Proof

/-- The tuple R54 says `decode` yields: every component, taken from the word regardless of the mode. -/
structure Fields where
  op : BitVec 6
  immFlag : Bool
  idxFlag : Bool
  regcond : BitVec 4
  imm20 : BitVec 20
  abs20 : BitVec 20
  rindex : BitVec 4
  off16 : BitVec 16
deriving DecidableEq, Repr

/-- Field extraction (R51, R52). -/
def fields (w : Word) : Fields where
  op := w.extractLsb' 0 6
  immFlag := w.getLsbD 6
  idxFlag := w.getLsbD 7
  regcond := w.extractLsb' 8 4
  imm20 := w.extractLsb' 12 20
  abs20 := w.extractLsb' 12 20
  rindex := w.extractLsb' 12 4
  off16 := w.extractLsb' 16 16

/-- `is_immediate` (R53). -/
def isImmediate (f : Fields) : Bool := f.immFlag

/-- `is_indexed` (R53): "immediate always wins when set". -/
def isIndexed (f : Fields) : Bool := f.idxFlag && !f.immFlag

/-- The register a 4-bit field selects (R56, R60). -/
def regOf (r : BitVec 4) : Reg := r.toFin

/-- The operand in the mode the flags select (R52, R53). -/
def operandOf (f : Fields) : Operand :=
  if isImmediate f then .imm f.imm20
  else if isIndexed f then .mem (.idx (regOf f.rindex) f.off16)
  else .mem (.abs f.abs20)

/-- The condition a selector names (R57). -/
def condOf (sel : BitVec 4) : Cond :=
  match sel.toNat with
  | 0 => .nc
  | 1 => .eq
  | 2 => .ne
  | 3 => .gt
  | 4 => .ge
  | 5 => .lt
  | 6 => .le
  | _ => .invalid sel

/-- The instruction the opcode selects (R55, R56, R143). The don't-care bits of R61 are dropped here. -/
def instrOf (f : Fields) : Instr :=
  match f.op.toNat with
  | 0 => .illop
  | 1 => .nop
  | 2 => .load (regOf f.regcond) (operandOf f)
  | 3 => .store (regOf f.regcond) (operandOf f)
  | 4 => .add (regOf f.regcond) (operandOf f)
  | 5 => .sub (regOf f.regcond) (operandOf f)
  | 6 => .branch (condOf f.regcond) (operandOf f)
  | 7 => .call (condOf f.regcond) (operandOf f)
  | 8 => .ret
  | 9 => .push (operandOf f)
  | 10 => .pop (operandOf f)
  | 11 => .halt
  | n => if n < 16 then .unknown12to15 f.op else if n < 32 then .unknown16to31 f.op else .unknown32to63 f.op

/-- `decode` (R54): "a pure, total function — every 32-bit pattern decodes to *some* Instruction value". -/
def decode (w : Word) : Instr := instrOf (fields w)

/-- The decoder on a row of spec/opcode_table.json: the low `nbits` bits of `w`, the bits above them zero,
as one instruction word. Every instruction is one 32-bit word (R50), so anything longer is refused. -/
def decodeTableWord (nbits w : Nat) : Option Instr :=
  if nbits ≤ 32 then some (decode (BitVec.ofNat 32 (w % 2 ^ nbits))) else none

/-- The opcode number of an instruction (R55). -/
def Instr.opcode : Instr → BitVec 6
  | .illop => 0
  | .nop => 1
  | .load _ _ => 2
  | .store _ _ => 3
  | .add _ _ => 4
  | .sub _ _ => 5
  | .branch _ _ => 6
  | .call _ _ => 7
  | .ret => 8
  | .push _ => 9
  | .pop _ => 10
  | .halt => 11
  | .unknown12to15 op => op
  | .unknown16to31 op => op
  | .unknown32to63 op => op

/-- The selector number of a condition (R57). -/
def Cond.selector : Cond → BitVec 4
  | .nc => 0
  | .eq => 1
  | .ne => 2
  | .gt => 3
  | .ge => 4
  | .lt => 5
  | .le => 6
  | .invalid sel => sel

/-- A word from its five fields, the operand in bits 31:12 and the opcode in bits 5:0 (R51). -/
def packWord (operand : BitVec 20) (regcond : BitVec 4) (x i : BitVec 1) (op : BitVec 6) : Word :=
  operand ++ regcond ++ x ++ i ++ op

/-- The word of an instruction with an operand: `enc_imm`, `enc_abs`, `enc_idx` of R67. -/
def encodeWith (op : BitVec 6) (regcond : BitVec 4) : Operand → Word
  | .imm n => packWord n regcond 0 1 op
  | .mem (.abs a) => packWord a regcond 0 0 op
  | .mem (.idx r off) => packWord (off ++ BitVec.ofFin (w := 4) r) regcond 1 0 op

/-- The word of an instruction without operand: `enc_nil` of R67. -/
def encodeNil (op : BitVec 6) : Word := packWord 0 0 0 0 op

/-- The canonical encoding of R67, every don't-care bit zero. -/
def encode (i : Instr) : Word :=
  match i with
  | .load rd src => encodeWith i.opcode (BitVec.ofFin (w := 4) rd) src
  | .store rs dst => encodeWith i.opcode (BitVec.ofFin (w := 4) rs) dst
  | .add rd src => encodeWith i.opcode (BitVec.ofFin (w := 4) rd) src
  | .sub rd src => encodeWith i.opcode (BitVec.ofFin (w := 4) rd) src
  | .branch cond target => encodeWith i.opcode cond.selector target
  | .call cond target => encodeWith i.opcode cond.selector target
  | .push src => encodeWith i.opcode 0 src
  | .pop dst => encodeWith i.opcode 0 dst
  | .illop | .nop | .ret | .halt => encodeNil i.opcode
  | .unknown12to15 _ | .unknown16to31 _ | .unknown32to63 _ => encodeNil i.opcode

end Sys2Proof
end

