-- ==== Sys2Proof/Config.lean ====
section
/-! DEFINITION. What the spec leaves to the surroundings of the core: the parameters R3 calls OPEN and the
answers of the outside world, each an opaque constant (a free value: nothing can be proved of it), and the
one value the model names itself. -/

namespace Sys2Proof.Config

/-- The index of the stack-pointer register, `SP` = 15 (00_scope.md R3, 10_state.md R12). -/
def sp : Reg := 15

/-- `DATA_INIT` (D13, R27, U5): what a data word holds after a load whose image did not supply it. A FREE
VALUE: the first argument is the number of the load, the second the address (notes/assumptions/4.md). -/
opaque dataInit : Nat → Word → Word

/-- The step-debug collaborator's answer "keep debugging" (R185). A FREE VALUE: the first argument is the
number of the load, the second how many hooks that run raised before (notes/assumptions/5.md). -/
opaque keepDebugging : Nat → Nat → Bool

/-- `EXIT_FAIL_STATUS` less one; see `exitFailStatus`. A FREE VALUE (notes/assumptions/9.md). -/
opaque exitFailStatusPred : Nat

/-- `EXIT_FAIL_STATUS` (R3, R165, D25): the process status of a fault, "any non-zero value". -/
def exitFailStatus : Nat := exitFailStatusPred + 1

/-- DESIGN CHOICE (unsafe, notes/assumptions/2.md): the value `fault_addr` holds after a load, which R27
leaves unspecified. No instruction reads it. -/
def faultAddrAfterLoad : Word := 0

end Sys2Proof.Config
end

