-- ==== Sys2Proof/Machine/State.lean ====
section
/-! DEFINITION. The state of the machine as plain data (10_state.md R10 to R29), the reasons a step can
stop, and the state after reset. -/

namespace Sys2Proof.Machine

/-- The condition code (10_state.md R16, R18). `undefined` is a proper value of the register. -/
inductive CC where
  | undefined | zero | negative | positive
deriving DecidableEq, Repr

/-- The run state (R20). -/
inductive RunState where
  | empty | running | halted | faulted
deriving DecidableEq, Repr

/-- The seven kinds of fault the core raises (60_exceptions.md R150). -/
inductive FaultKind where
  | illegalInstruction
  | unknownInstruction
  | invalidCondition
  | immediateForbidden
  | dataSegmentation
  | stackSegmentation
  | textSegmentation
deriving DecidableEq, Repr

/-- One word of a memory: its word index and its pattern. The word is the smallest unit this hardware
addresses (20_memory.md R30, R33, R34; notes/assumptions/6.md). -/
abbrev Cell := Nat × Word

/-- A memory: the listed words. An address that is not listed has no value here; what the machine reads
there is said by `memRead` and `textRead` of Machine/Ops.lean. -/
abbrev Memory := List Cell

/-- The canonical form of a memory: addresses strictly rising. An unlisted address has no value, so no
entry can equal what an unlisted address holds. -/
abbrev Memory.wf (m : Memory) : Prop := m.Pairwise (fun c d => c.1 < d.1)

/-- Every piece of state the spec gives the machine, and the model's own counters `epoch` and `hooks`. -/
structure State where
  /-- `x[0]` .. `x[15]` (R10). -/
  regs : Vector Word 16
  /-- The program counter, a word index into text (R13). -/
  pc : Word
  /-- The condition code (R16). -/
  cc : CC
  /-- Number of instruction words (R19). -/
  textsize : Word
  /-- Number of data words (R19). -/
  datasize : Word
  /-- First word of the stack region (R19). -/
  dataend : Word
  /-- The run state (R20). -/
  run : RunState
  /-- The kind half of the fault record, `none` for `NONE` (R21). -/
  faultKind : Option FaultKind
  /-- The address half of the fault record (R21). -/
  faultAddr : Word
  /-- The debug-attached flag (R22). -/
  dbg : Bool
  /-- The text memory (R23). -/
  text : Memory
  /-- The data memory (R24). -/
  data : Memory
  /-- The MODEL's own: how many loads this core has had. It selects the free values of a run
  (notes/assumptions/4.md, notes/assumptions/5.md). -/
  epoch : Nat
  /-- The MODEL's own: how many debug hooks this run has raised (notes/assumptions/5.md). -/
  hooks : Nat
deriving DecidableEq, Repr

/-- Why no step is defined although the core was loaded (R20, U8): the run has ended. A fault of the
program is not one of these: taking it is a next state (R157). -/
inductive Fault where
  /-- Raised by `step` in run state HALTED: the intended end of a run, a stuck state. Safe. -/
  | halted
  /-- Raised by `step` in run state FAULTED: a faulted run has ended, a stuck state. Safe. -/
  | faulted
deriving DecidableEq, Repr

/-- Why the model gives no meaning. -/
inductive Refusal where
  /-- Raised by an arm of `exec` whose instruction has no meaning yet. Safe. No arm raises it. -/
  | notModelled (mnemonic : String)
  /-- Raised by `step` in run state EMPTY: the core was never loaded (R28, U8). Safe. -/
  | notLoaded
  /-- Raised by `State.load` when the image breaks a precondition of R178 (D12, U7). Safe. -/
  | badImage
  /-- Raised by `step` when the text word at a `pc` below `textsize` was never installed, which R178 (b)
  excludes: no load makes such a state. Safe (notes/assumptions/15.md). -/
  | textMissing
deriving DecidableEq, Repr

/-- The machine right after reset, which is a load (R27, R175): the load of the empty image
`textsize = datasize = dataend = 0` with no debugger attached (DESIGN CHOICE, notes/assumptions/1.md,
notes/assumptions/3.md). `x[15]` is then `u32(0 - 1)` (D11, R176). -/
def State.reset : State where
  regs := #v[0, 0, 0, 0, 0, 0, 0, 0, 0, 0, 0, 0, 0, 0, 0, 0xFFFFFFFF]
  pc := 0
  cc := .undefined
  textsize := 0
  datasize := 0
  dataend := 0
  run := .running
  faultKind := none
  faultAddr := Config.faultAddrAfterLoad
  dbg := false
  text := []
  data := []
  epoch := 0
  hooks := 0

/-- A core before its first load (R28): run state EMPTY, in which no step is defined. Every other field is
unspecified and holds a value the model names (DESIGN CHOICE, notes/assumptions/10.md). -/
def State.unloaded : State := { State.reset with run := .empty }

end Sys2Proof.Machine
end

