-- ==== Sys2Proof/Machine/Ops.lean ====
section
/-! DEFINITION. The named operations over memories and registers, taking a fault, and the two stack
primitives. -/

namespace Sys2Proof.Machine

/-! ### Memories -/

/-- The word listed at address `a`. -/
def Memory.read : Memory → Nat → Option Word
  | [], _ => none
  | (k, v) :: m, a => if k = a then some v else Memory.read m a

/-- The memory with the word at address `a` made `v`, in canonical form. -/
def Memory.write : Memory → Nat → Word → Memory
  | [], a, v => [(a, v)]
  | (k, u) :: m, a, v =>
    if a < k then (a, v) :: (k, u) :: m
    else if a = k then (a, v) :: m
    else (k, u) :: Memory.write m a v

/-- The memory that holds the given words from address `a` on. -/
def Memory.ofWords : Nat → List Word → Memory
  | _, [] => []
  | a, v :: vs => (a, v) :: Memory.ofWords (a + 1) vs

/-- `MemRead(e, 32)` (20_memory.md R32): the word most recently written to `data[e]`, or its load-time
value, which is `DATA_INIT` where the image supplied none (R27). Defined for `e < datasize`; every use
stands behind a check. -/
def memRead (e : Word) (s : State) : Word :=
  (Memory.read s.data e.toNat).getD (Config.dataInit s.epoch e)

/-- `MemWrite(e, 32, v)` (R32). -/
def memWrite (e v : Word) (s : State) : State :=
  { s with data := Memory.write s.data e.toNat v }

/-- `TextRead(a)` (R31): the word the loader installed at `text[a]`; `none` where it installed none. -/
def textRead (a : Word) (s : State) : Option Word := Memory.read s.text a.toNat

/-! ### Registers -/

/-- Read of `x[i]` (00_scope.md R6, 10_state.md R10). -/
def getReg (r : Reg) (s : State) : Word := s.regs[r]

/-- Write of `x[i]` (R6, R10: no register is hardwired). -/
def setReg (r : Reg) (v : Word) (s : State) : State := { s with regs := s.regs.set r v }

/-- `pc <- t` (R6). -/
def setPc (t : Word) (s : State) : State := { s with pc := t }

/-- `cc <- c` (R6). -/
def setCc (c : CC) (s : State) : State := { s with cc := c }

/-- `stop` (R6): the instruction completes and the run ends successfully (45_system.md R142). -/
def stopRun (s : State) : State := { s with run := .halted }

/-! ### Taking a fault -/

/-- The instruction's own address `a`, which is `pc - 1` while it executes (40_step_and_addressing.md
R77). -/
def instrAddr (s : State) : Word := s.pc - 1

/-- A fault of kind `k` at address `a` is taken (00_scope.md R7, 60_exceptions.md R157, R160): the fault
record is written and the run ends. Nothing else happens: there is no handler, no vector and no saved
state, and so no return (R161). -/
def raiseAt (k : FaultKind) (a : Word) (s : State) : State :=
  { s with run := .faulted, faultKind := some k, faultAddr := a }

/-- `raise F(a)` (R7) by the instruction that executes. -/
def raise (k : FaultKind) (s : State) : State := raiseAt k (instrAddr s) s

/-- A piece of an instruction that may raise: its value, or the state in which a fault has been taken. -/
abbrev Attempt (α : Type) := Except State α

/-- The end of an instruction: whether it completed or raised, the machine is in the state reached. -/
def conclude : Attempt State → Host.Outcome State Fault Refusal
  | .ok s => .next s
  | .error s => .next s

/-! ### The stack primitives -/

/-- The test of `CheckStackBounds` (44_stack.md R130), `dataend ≤ x[15] < datasize`, unsigned. -/
def stackInBounds (s : State) : Bool :=
  decide (s.dataend ≤ getReg Config.sp s) && decide (getReg Config.sp s < s.datasize)

/-- `CheckStackBounds(a)` (R130): the state itself, or a stack-segmentation fault. -/
def checkStackBounds (s : State) : Attempt State :=
  if stackInBounds s then .ok s else .error (raise .stackSegmentation s)

/-- `StackPush(v, a)` (R131): adjust, check, then store at the new stack pointer. -/
def stackPush (v : Word) (s : State) : Attempt State := do
  let s ← checkStackBounds (setReg Config.sp (getReg Config.sp s - 1) s)
  return memWrite (getReg Config.sp s) v s

/-- `StackPop(a)` (R132): adjust, check, then read the word below the new stack pointer, which is the word
the old one addressed. The guard closes the case of a pointer that wrapped to 0 (D8). -/
def stackPop (s : State) : Attempt (Word × State) := do
  let s ← checkStackBounds (setReg Config.sp (getReg Config.sp s + 1) s)
  let e := getReg Config.sp s - 1
  if e < s.datasize then return (memRead e s, s) else .error (raise .stackSegmentation s)

end Sys2Proof.Machine
end

