-- ==== Sys2Proof/Machine/Flags.lean ====
section
/-! DEFINITION. The condition code: its update and its evaluation. -/

namespace Sys2Proof.Machine

/-- The class of a result read as a signed 32-bit number (42_arithmetic.md R105). -/
def ccOf (r : Word) : CC :=
  if r.toInt < 0 then .negative else if 0 < r.toInt then .positive else .zero

/-- `SetCC(r)` (R105). -/
def updateCc (r : Word) (s : State) : State := setCc (ccOf r) s

/-- `CondHolds(sel, a)` (43_control_transfer.md R115), the literal table, for `cc = U` too (D24, U2). -/
def condHolds (c : Cond) (s : State) : Attempt Bool :=
  match c with
  | .nc => .ok true
  | .eq => .ok (decide (s.cc = .zero))
  | .ne => .ok (decide (s.cc ≠ .zero))
  | .gt => .ok (decide (s.cc = .positive))
  | .ge => .ok (decide (s.cc = .positive ∨ s.cc = .zero))
  | .lt => .ok (decide (s.cc = .negative))
  | .le => .ok (decide (s.cc = .negative ∨ s.cc = .zero))
  | .invalid _ => .error (raise .invalidCondition s)

end Sys2Proof.Machine
end

