-- ==== Sys2Proof/Machine/Operands.lean ====
section
/-! DEFINITION. The address generator and its checks (40_step_and_addressing.md R79 to R84). -/

namespace Sys2Proof.Machine

/-- `sext_N` of an N-bit field to a Word (00_scope.md R5). -/
def sext {n : Nat} (v : BitVec n) : Word := v.signExtend 32

/-- `zext_N` of an N-bit field to a Word (R5). -/
def zext {n : Nat} (v : BitVec n) : Word := v.setWidth 32

/-- `EA(ins)` (R80): a data address or a text address; it does not know which. -/
def effectiveAddress (m : Address) (s : State) : Word :=
  match m with
  | .abs addr => zext addr
  | .idx r off => getReg r s + sext off

/-- `RequireNotImmediate(ins, a)` (R81): the address the operand designates, or an immediate-forbidden
fault. -/
def requireNotImmediate (op : Operand) (s : State) : Attempt Address :=
  match op with
  | .imm _ => .error (raise .immediateForbidden s)
  | .mem m => .ok m

/-- `CheckDataBounds(e, a)` (R82): the address itself, or a data-segmentation fault. -/
def checkDataBounds (e : Word) (s : State) : Attempt Word :=
  if s.datasize ≤ e then .error (raise .dataSegmentation s) else .ok e

/-- `SourceOperand(ins, a)` (R79). -/
def sourceOperand (op : Operand) (s : State) : Attempt Word :=
  match op with
  | .imm n => .ok (sext n)
  | .mem m => do
    let e ← checkDataBounds (effectiveAddress m s) s
    return memRead e s

/-- `DestAddress(ins, a)` (R84). -/
def destAddress (op : Operand) (s : State) : Attempt Word := do
  let m ← requireNotImmediate op s
  checkDataBounds (effectiveAddress m s) s

end Sys2Proof.Machine
end

