-- ==== Sys2Proof/Machine/Arithmetic.lean ====
section
/-! DEFINITION. ADD and SUB (42_arithmetic.md). Both are modulo 2^32 (R108, D6). -/

namespace Sys2Proof.Machine

/-- ADD (R106). -/
def execAdd (rd : Reg) (src : Operand) (s : State) : Host.Outcome State Fault Refusal :=
  conclude do
    let v ← sourceOperand src s
    let r := getReg rd s + v
    return updateCc r (setReg rd r s)

/-- SUB (R107): register minus operand. -/
def execSub (rd : Reg) (src : Operand) (s : State) : Host.Outcome State Fault Refusal :=
  conclude do
    let v ← sourceOperand src s
    let r := getReg rd s - v
    return updateCc r (setReg rd r s)

end Sys2Proof.Machine
end

