-- ==== Sys2Proof/Machine/Control.lean ====
section
/-! DEFINITION. BRANCH, CALL and RET (43_control_transfer.md). On entry `pc` is already `a + 1` (R14). -/

namespace Sys2Proof.Machine

/-- BRANCH (R116). The target is not checked here: the next fetch checks it (R120). -/
def execBranch (cond : Cond) (target : Operand) (s : State) : Host.Outcome State Fault Refusal :=
  conclude do
    let m ← requireNotImmediate target s
    if ← condHolds cond s then
      return setPc (effectiveAddress m s) s
    else
      return s

/-- CALL (R117): the target is computed before the stack pointer moves (R83), and the word pushed is
`pc`, the address after the CALL. -/
def execCall (cond : Cond) (target : Operand) (s : State) : Host.Outcome State Fault Refusal :=
  conclude do
    let m ← requireNotImmediate target s
    if ← condHolds cond s then
      let t := effectiveAddress m s
      let s ← stackPush s.pc s
      return setPc t s
    else
      return s

/-- RET (R118). -/
def execRet (s : State) : Host.Outcome State Fault Refusal :=
  conclude do
    let (v, s) ← stackPop s
    return setPc v s

end Sys2Proof.Machine
end

