-- ==== Sys2Proof/Machine/DataTransfer.lean ====
section
/-! DEFINITION. LOAD and STORE (41_data_transfer.md). -/

namespace Sys2Proof.Machine

/-- LOAD (R95). -/
def execLoad (rd : Reg) (src : Operand) (s : State) : Host.Outcome State Fault Refusal :=
  conclude do
    let v ← sourceOperand src s
    return updateCc v (setReg rd v s)

/-- STORE (R96). -/
def execStore (rs : Reg) (dst : Operand) (s : State) : Host.Outcome State Fault Refusal :=
  conclude do
    let e ← destAddress dst s
    return memWrite e (getReg rs s) s

end Sys2Proof.Machine
end

