-- ==== Sys2Proof/Machine/Stack.lean ====
section
/-! DEFINITION. PUSH and POP (44_stack.md). -/

namespace Sys2Proof.Machine

/-- PUSH (R133): the operand is evaluated with the stack pointer not yet moved. -/
def execPush (src : Operand) (s : State) : Host.Outcome State Fault Refusal :=
  conclude do
    let v ← sourceOperand src s
    stackPush v s

/-- POP (R134): the destination address is evaluated with the stack pointer not yet moved. -/
def execPop (dst : Operand) (s : State) : Host.Outcome State Fault Refusal :=
  conclude do
    let e ← destAddress dst s
    let (v, s) ← stackPop s
    return memWrite e v s

end Sys2Proof.Machine
end

