-- ==== Sys2Proof/Machine/System.lean ====
section
/-! DEFINITION. NOP, ILLOP, HALT and the unknown opcodes (45_system.md). -/

namespace Sys2Proof.Machine

/-- NOP (R140): nothing; the step has already advanced `pc`. -/
def execNop (s : State) : Host.Outcome State Fault Refusal := .next s

/-- ILLOP (R141): always an illegal-instruction fault. -/
def execIllop (s : State) : Host.Outcome State Fault Refusal := .next (raise .illegalInstruction s)

/-- HALT (R142): the run ends successfully; no fault record is written. -/
def execHalt (s : State) : Host.Outcome State Fault Refusal := .next (stopRun s)

/-- Opcodes 12..15 (R143): always an unknown-instruction fault. -/
def execUnknown12to15 (s : State) : Host.Outcome State Fault Refusal := .next (raise .unknownInstruction s)

/-- Opcodes 16..31 (R143): always an unknown-instruction fault. -/
def execUnknown16to31 (s : State) : Host.Outcome State Fault Refusal := .next (raise .unknownInstruction s)

/-- Opcodes 32..63 (R143): always an unknown-instruction fault. -/
def execUnknown32to63 (s : State) : Host.Outcome State Fault Refusal := .next (raise .unknownInstruction s)

end Sys2Proof.Machine
end

