-- ==== Sys2Proof/Machine/Dispatch.lean ====
section
/-! DEFINITION. `Execute(ins, a)` (40_step_and_addressing.md R78): one arm per constructor. -/

namespace Sys2Proof.Machine

def exec (i : Instr) (s : State) : Host.Outcome State Fault Refusal :=
  match i with
  | .illop => Sys2Proof.Machine.execIllop s
  | .nop => Sys2Proof.Machine.execNop s
  | .load rd src => Sys2Proof.Machine.execLoad rd src s
  | .store rs dst => Sys2Proof.Machine.execStore rs dst s
  | .add rd src => Sys2Proof.Machine.execAdd rd src s
  | .sub rd src => Sys2Proof.Machine.execSub rd src s
  | .branch cond target => Sys2Proof.Machine.execBranch cond target s
  | .call cond target => Sys2Proof.Machine.execCall cond target s
  | .ret => Sys2Proof.Machine.execRet s
  | .push src => Sys2Proof.Machine.execPush src s
  | .pop dst => Sys2Proof.Machine.execPop dst s
  | .halt => Sys2Proof.Machine.execHalt s
  | .unknown12to15 _ => Sys2Proof.Machine.execUnknown12to15 s
  | .unknown16to31 _ => Sys2Proof.Machine.execUnknown16to31 s
  | .unknown32to63 _ => Sys2Proof.Machine.execUnknown32to63 s

end Sys2Proof.Machine
end

