-- ==== Sys2Proof/Machine/Sequencer.lean ====
section
/-! DEFINITION. The sequencer (40_step_and_addressing.md R75, R76): what surrounds the execution of one
instruction. -/

namespace Sys2Proof.Machine

/-- The output `hook` (70_reset_and_hazards.md R185, R186), as it stands when an instruction has completed:
up iff the core is left RUNNING and a debugger is attached. -/
def hookRaised (s : State) : Bool := decide (s.run = .running) && s.dbg

/-- The debug hook (R185): if it is raised, the collaborator answers "keep debugging" or not, and "no"
detaches it for the rest of the run. The collaborator is read-only (D17, notes/assumptions/12.md). -/
def debugHook (s : State) : State :=
  if hookRaised s then
    { s with dbg := Config.keepDebugging s.epoch s.hooks, hooks := s.hooks + 1 }
  else s

/-- The instruction word `w`, fetched at `pc`, is run: `pc` is incremented before execution, then the
decoded instruction executes, then the hook. -/
def runWord (w : Word) (s : State) : Host.Outcome State Fault Refusal :=
  match exec (decode w) (setPc (s.pc + 1) s) with
  | .next t => .next (debugHook t)
  | .fault r => .fault r
  | .refused r => .refused r

/-- `Step()` in run state RUNNING (R75), with the fetch bound of R76. -/
def runStep (s : State) : Host.Outcome State Fault Refusal :=
  if s.textsize ≤ s.pc then .next (raiseAt .textSegmentation s.pc s)
  else
    match textRead s.pc s with
    | some w => runWord w s
    | none => .refused .textMissing

/-- A state whose next fetch, at `pc`, finds the word `w`: the word is installed at `pc`, `textsize` is
raised above `pc` where it was not, and the core is RUNNING. At `pc = 2^32 - 1` no text word can exist
(10_state.md R15), so there the word is installed at 0 and `pc` is 0. -/
def installFetchWord (w : Word) (s : State) : State :=
  let p : Word := if s.pc = 0xFFFFFFFF then 0 else s.pc
  { s with
    pc := p
    text := Memory.write s.text p.toNat w
    textsize := if s.textsize ≤ p then p + 1 else s.textsize
    run := .running }

end Sys2Proof.Machine
end

