-- ==== Sys2Proof/Machine/Step.lean ====
section
/-! DEFINITION. The step of the machine, by run state (10_state.md R20). -/

namespace Sys2Proof.Machine

/-- One step. It is defined in RUNNING only (R20, 40_step_and_addressing.md R75): HALTED and FAULTED are
terminal, and an EMPTY core accepts nothing but a load (R28, U8). -/
def step (s : State) : Host.Outcome State Fault Refusal :=
  match s.run with
  | .running => runStep s
  | .halted => .fault .halted
  | .faulted => .fault .faulted
  | .empty => .refused .notLoaded

/-- `s` with the instruction whose low `nbits` bits are those of `w`, the bits above them zero, stored
where `step` fetches next. It stands for the load of a program (notes/assumptions/1.md). -/
def State.withFetchWord (s : State) (nbits w : Nat) : State :=
  installFetchWord (BitVec.ofNat 32 (w % 2 ^ nbits)) s

end Sys2Proof.Machine
end

