-- ==== Sys2Proof/Machine/Load.lean ====
section
/-! DEFINITION. Load, the reset of this hardware, and the program image (70_reset_and_hazards.md R175 to
R180). -/

namespace Sys2Proof.Machine

/-- The loader's tuple (R175, R180). `data` holds the words the image supplies. -/
structure Image where
  textsize : Word
  datasize : Word
  dataend : Word
  text : List Word
  data : List Word
deriving DecidableEq, Repr

/-- The preconditions of load (R178): `dataend ≤ datasize`, `textsize` words of text, and `datasize` words
of data or, in the loader's minimal case, `dataend` (R180, C5, notes/assumptions/8.md). -/
def Image.valid (img : Image) : Bool :=
  decide (img.dataend ≤ img.datasize)
    && decide (img.text.length = img.textsize.toNat)
    && decide (img.data.length = img.datasize.toNat ∨ img.data.length = img.dataend.toNat)

/-- The registers after load (10_state.md R27, R176): zero, but `x[15] = u32(datasize - 1)`. -/
def regsAfterLoad (datasize : Word) : Vector Word 16 :=
  (Vector.replicate 16 0).set Config.sp (datasize - 1)

/-- `Load` (R175), in any run state: nothing of the previous run survives. An image that breaks R178 is
refused (D12). `epoch` counts the loads, so that what the image does not supply is free anew. -/
def State.load (img : Image) (debugAttached : Bool) (s : State) : Host.Outcome State Fault Refusal :=
  if img.valid then
    .next
      { regs := regsAfterLoad img.datasize
        pc := 0
        cc := .undefined
        textsize := img.textsize
        datasize := img.datasize
        dataend := img.dataend
        run := .running
        faultKind := none
        faultAddr := Config.faultAddrAfterLoad
        dbg := debugAttached
        text := Memory.ofWords 0 img.text
        data := Memory.ofWords 0 img.data
        epoch := s.epoch + 1
        hooks := 0 }
  else .refused .badImage

/-- The program image as 32-bit units (R180): three sizes, the text words, the data words. The bytes of
the file, and `IMAGE_BYTE_ORDER`, are the loader's (00_scope.md R2, D18). -/
def Image.toWords (img : Image) : List Word :=
  img.textsize :: img.datasize :: img.dataend :: (img.text ++ img.data)

/-- The tuple a program image stands for (R180); `none` if it is too short to hold the three sizes. -/
def Image.ofWords : List Word → Option Image
  | textsize :: datasize :: dataend :: rest =>
    some { textsize, datasize, dataend
           text := rest.take textsize.toNat
           data := rest.drop textsize.toNat }
  | _ => none

end Sys2Proof.Machine
end

