-- ==== Sys2Proof/Machine/HostInterface.lean ====
section
/-! DEFINITION. What the host does with the core and what it gets (70_reset_and_hazards.md R184, R186;
60_exceptions.md R165, R166). -/

namespace Sys2Proof.Machine

/-- The 2-bit code of `cc` (10_state.md R18). -/
def CC.code : CC → BitVec 2
  | .undefined => 0
  | .zero => 1
  | .negative => 2
  | .positive => 3

/-- The 2-bit code of the run state (R186). -/
def RunState.code : RunState → BitVec 2
  | .empty => 0
  | .running => 1
  | .halted => 2
  | .faulted => 3

/-- The 3-bit code of a fault kind (60_exceptions.md R150). -/
def FaultKind.code : FaultKind → BitVec 3
  | .illegalInstruction => 1
  | .unknownInstruction => 2
  | .invalidCondition => 3
  | .immediateForbidden => 4
  | .dataSegmentation => 5
  | .stackSegmentation => 6
  | .textSegmentation => 7

/-- The 3-bit code of the `fault_kind` register, 0 for `NONE` (R150). -/
def faultKindCode : Option FaultKind → BitVec 3
  | none => 0
  | some k => k.code

/-- `exit_ok` (R165, R166): true in HALTED, false in FAULTED; the spec gives it no value before the end
of a run (notes/assumptions/9.md). -/
def exitOk (s : State) : Option Bool :=
  match s.run with
  | .halted => some true
  | .faulted => some false
  | .running | .empty => none

/-- The process status at the end of a run (R165, R166, D25). -/
def exitStatus (s : State) : Option Nat := (exitOk s).map fun ok => if ok then 0 else Config.exitFailStatus

/-- The outputs of the block that report a run (R186). The output `hook` is `hookRaised` of
Machine/Sequencer.lean. -/
structure Outputs where
  run : BitVec 2
  exitOk : Option Bool
  faultKind : BitVec 3
  faultAddr : Word
deriving DecidableEq, Repr

/-- The outputs in a state (R186). -/
def outputs (s : State) : Outputs where
  run := s.run.code
  exitOk := exitOk s
  faultKind := faultKindCode s.faultKind
  faultAddr := s.faultAddr

/-- The host's `run` (R184): `Step` repeated until `run` is not RUNNING, for at most the given number of
steps. -/
def drive : Nat → State → Host.Outcome State Fault Refusal
  | 0, s => .next s
  | k + 1, s =>
    if s.run = .running then
      match step s with
      | .next t => drive k t
      | .fault r => .fault r
      | .refused r => .refused r
    else .next s

end Sys2Proof.Machine
end

