-- ==== Sys2Proof/Safety.lean ====
section
/-! DEFINITION. What counts as a legal state and as a safe run, and the terms the statements use: what the
spec says of operands, conditions and faults, written down again apart from the machine. -/

namespace Sys2Proof.Safety

open Sys2Proof.Machine

/-! ### Legal states and safe runs -/

/-- The invariant of a loaded core: the limits are ordered (10_state.md R29 (a)), both memories are in
canonical form and list nothing above their limits (20_memory.md R37), every text word that exists is
installed (70_reset_and_hazards.md R178 (b)), and a fault is recorded exactly in FAULTED
(60_exceptions.md R157). -/
structure Inv (s : State) : Prop where
  limits : s.dataend ≤ s.datasize
  textForm : Memory.wf s.text
  dataForm : Memory.wf s.data
  textBelow : ∀ c ∈ s.text, c.1 < s.textsize.toNat
  dataBelow : ∀ c ∈ s.data, c.1 < s.datasize.toNat
  textFull : ∀ a : Word, a < s.textsize → (textRead a s).isSome
  record : s.run = .faulted ↔ s.faultKind.isSome

/-- The stack-pointer invariant (10_state.md R29 (b)): `dataend ≤ x[15] < datasize`. -/
def StackPointerInBounds (s : State) : Prop :=
  s.dataend ≤ getReg Config.sp s ∧ getReg Config.sp s < s.datasize

/-- States a run passes through: `s` itself and what steps lead to. -/
inductive Reaches (s : State) : State → Prop where
  | refl : Reaches s s
  | step {t u : State} : Reaches s t → step t = .next u → Reaches s u

/-- A safe run: no state it reaches is FAULTED (93_implementation_defined.md U6). -/
def FaultFree (s : State) : Prop := ∀ t, Reaches s t → t.run ≠ .faulted

/-- Two states that differ at most in what the debug hook may change (70_reset_and_hazards.md R185). -/
def SameButDebugger (s t : State) : Prop :=
  { s with dbg := false, hooks := 0 } = { t with dbg := false, hooks := 0 }

/-- What no instruction changes: the limits, the text, the debug flag and the model's counters. -/
def SameSurroundings (s t : State) : Prop :=
  t.textsize = s.textsize ∧ t.datasize = s.datasize ∧ t.dataend = s.dataend ∧ t.text = s.text ∧
    t.dbg = s.dbg ∧ t.epoch = s.epoch ∧ t.hooks = s.hooks

/-- The run state and the fault record are as before, or a fault has been taken at the instruction's own
address. -/
def SameRunOrFault (s t : State) : Prop :=
  (t.run = s.run ∧ t.faultKind = s.faultKind ∧ t.faultAddr = s.faultAddr) ∨
    (t.run = .faulted ∧ (∃ k, t.faultKind = some k) ∧ t.faultAddr = s.pc - 1)

/-- Instructions executed one after the other, with no fetch between them, until one ends the run. -/
def execAll : List Instr → State → Host.Outcome State Fault Refusal
  | [], s => .next s
  | i :: is, s =>
    match exec i s with
    | .next t => if t.run = .running then execAll is t else .next t
    | .fault r => .fault r
    | .refused r => .refused r

/-! ### What the rules say, apart from the machine -/

/-- The word with its don't-care bits cleared (30_encoding.md R61): all but the opcode in ILLOP, NOP, RET,
HALT and the unknown opcodes, X in immediate mode, `regcond` in PUSH and POP. -/
def dontCareCleared (w : Word) : Word :=
  let op := (w.extractLsb' 0 6).toNat
  if op = 0 ∨ op = 1 ∨ op = 8 ∨ 11 ≤ op then w &&& 0x0000003F
  else
    let w := if w.getLsbD 6 then w &&& 0xFFFFFF7F else w
    if op = 9 ∨ op = 10 then w &&& 0xFFFFF0FF else w

/-- The operand of a word in the layout its flags select (R52, R53): I is bit 6, X is bit 7. -/
def OperandLayout (w : Word) (o : Operand) : Prop :=
  (w.getLsbD 6 = true → o = .imm (w.extractLsb' 12 20)) ∧
  (w.getLsbD 6 = false → w.getLsbD 7 = false → o = .mem (.abs (w.extractLsb' 12 20))) ∧
  (w.getLsbD 6 = false → w.getLsbD 7 = true →
    ∃ r : Reg, r.val = (w.extractLsb' 12 4).toNat ∧ o = .mem (.idx r (w.extractLsb' 16 16)))

/-- A fault recorded and nothing else changed: the row "`pc` incremented to `a + 1`; nothing else" of the
table of 60_exceptions.md R162, `pc` being `a + 1` already. -/
def faultTaken (k : FaultKind) (s : State) : State :=
  { s with run := .faulted, faultKind := some k, faultAddr := s.pc - 1 }

/-- The sign of a result read as a signed 32-bit number (42_arithmetic.md R105). -/
def SignOf (r : Word) (c : CC) : Prop :=
  (r.toInt < 0 → c = .negative) ∧ (0 < r.toInt → c = .positive) ∧ (r = 0 → c = .zero)

/-- The value of a source operand (40_step_and_addressing.md R79): the sign-extended immediate, or the data
word at the effective address; `none` where the data-bounds check fails. -/
def operandValue (op : Operand) (s : State) : Option Word :=
  match op with
  | .imm n => some (n.signExtend 32)
  | .mem m => if effectiveAddress m s < s.datasize then some (memRead (effectiveAddress m s) s) else none

/-- The truth table of 43_control_transfer.md R115, `none` for an invalid selector. -/
def conditionTable (c : Cond) (cc : CC) : Option Bool :=
  match c with
  | .invalid _ => none
  | .nc => some true
  | .eq => some (match cc with | .zero => true | .undefined | .negative | .positive => false)
  | .ne => some (match cc with | .zero => false | .undefined | .negative | .positive => true)
  | .gt => some (match cc with | .positive => true | .undefined | .zero | .negative => false)
  | .ge => some (match cc with | .positive | .zero => true | .undefined | .negative => false)
  | .lt => some (match cc with | .negative => true | .undefined | .zero | .positive => false)
  | .le => some (match cc with | .negative | .zero => true | .undefined | .positive => false)

/-- The operand in immediate mode, in an instruction that forbids it (30_encoding.md R62). -/
def forbiddenImmediate : Instr → Bool
  | .store _ (.imm _) | .branch _ (.imm _) | .call _ (.imm _) | .pop (.imm _) => true
  | .store _ (.mem _) | .branch _ (.mem _) | .call _ (.mem _) | .pop (.mem _) => false
  | .illop | .nop | .load _ _ | .add _ _ | .sub _ _ | .ret | .push _ | .halt => false
  | .unknown12to15 _ | .unknown16to31 _ | .unknown32to63 _ => false

/-- BRANCH or CALL with a selector in 7..15 (R62). -/
def invalidSelector : Instr → Bool
  | .branch c _ | .call c _ =>
    match c with
    | .invalid _ => true
    | .nc | .eq | .ne | .gt | .ge | .lt | .le => false
  | .illop | .nop | .load _ _ | .store _ _ | .add _ _ | .sub _ _ | .ret | .push _ | .pop _ | .halt => false
  | .unknown12to15 _ | .unknown16to31 _ | .unknown32to63 _ => false

/-- The data operand of LOAD, STORE, ADD, SUB, PUSH and POP (60_exceptions.md R155). -/
def dataOperand : Instr → Option Operand
  | .load _ o | .store _ o | .add _ o | .sub _ o | .push o | .pop o => some o
  | .illop | .nop | .branch _ _ | .call _ _ | .ret | .halt => none
  | .unknown12to15 _ | .unknown16to31 _ | .unknown32to63 _ => none

/-- The data operand is in absolute or indexed mode and its address is `≥ datasize` (R155). -/
def dataOutOfBounds (i : Instr) (s : State) : Bool :=
  match dataOperand i with
  | some (.mem m) => decide (s.datasize ≤ effectiveAddress m s)
  | some (.imm _) | none => false

/-- The stack pointer as PUSH, POP, taken CALL and RET adjust it (44_stack.md R131, R132). -/
def adjustedPointer (i : Instr) (s : State) : Option Word :=
  match i with
  | .push _ => some (getReg Config.sp s - 1)
  | .call c _ => if conditionTable c s.cc = some true then some (getReg Config.sp s - 1) else none
  | .pop _ | .ret => some (getReg Config.sp s + 1)
  | .illop | .nop | .load _ _ | .store _ _ | .add _ _ | .sub _ _ | .branch _ _ | .halt => none
  | .unknown12to15 _ | .unknown16to31 _ | .unknown32to63 _ => none

/-- POP and RET read the word the old pointer addressed, which must exist (the guard of R132). -/
def popsNoWord (i : Instr) (s : State) : Bool :=
  match i with
  | .pop _ | .ret => decide (s.datasize ≤ getReg Config.sp s)
  | .illop | .nop | .load _ _ | .store _ _ | .add _ _ | .sub _ _ | .branch _ _ | .call _ _ => false
  | .push _ | .halt | .unknown12to15 _ | .unknown16to31 _ | .unknown32to63 _ => false

/-- The adjusted stack pointer is outside `[dataend, datasize)`, or the guard of R132 holds
(60_exceptions.md R156). -/
def stackOutOfBounds (i : Instr) (s : State) : Bool :=
  match adjustedPointer i s with
  | some p => !(decide (s.dataend ≤ p) && decide (p < s.datasize)) || popsNoWord i s
  | none => false

/-- An unknown opcode (45_system.md R143). -/
def unknownOpcode : Instr → Bool
  | .unknown12to15 _ | .unknown16to31 _ | .unknown32to63 _ => true
  | .illop | .nop | .load _ _ | .store _ _ | .add _ _ | .sub _ _ | .branch _ _ | .call _ _ | .ret => false
  | .push _ | .pop _ | .halt => false

/-- The first fault condition that holds, in the order of 60_exceptions.md R159 from its item 2 on. -/
def firstFault (i : Instr) (s : State) : Option FaultKind :=
  if i = .illop then some .illegalInstruction
  else if unknownOpcode i then some .unknownInstruction
  else if forbiddenImmediate i then some .immediateForbidden
  else if invalidSelector i then some .invalidCondition
  else if dataOutOfBounds i s then some .dataSegmentation
  else if stackOutOfBounds i s then some .stackSegmentation
  else none

end Sys2Proof.Safety
end

