-- ==== Sys2Proof/Certificates/Slice0/Obligations.lean ====
section
/-! DEFINITION. The statements for the provers. They are made from the rules of spec/; what a statement
calls the model's choice, or a decision of the spec, its docstring says. -/

open Sys2Proof Sys2Proof.Machine Sys2Proof.Safety

/-! ### Encoding -/

/-- 30_encoding.md R67: the canonical encoding of a well-formed instruction decodes to it. The field
positions and numbers are the spec's decisions D1 to D5 (notes/assumptions/11.md). -/
def Obligations.DecodeOfEncodeIsTheInstruction : Prop :=
  ∀ i : Instr, i.wellFormed = true → decode (encode i) = i

/-- R61: the decoder drops the don't-care bits of a word and no others. The positions are the spec's
decisions D1, D2 and D21 (notes/assumptions/11.md). -/
def Obligations.EncodeOfDecodeClearsDontCareBits : Prop :=
  ∀ w : Word, encode (decode w) = dontCareCleared w

/-- R54: "every 32-bit pattern decodes to *some* Instruction value", and to one that has an encoding. Which
numbers are opcodes and selectors is the spec's decisions D2 and D3 (notes/assumptions/11.md). -/
def Obligations.EveryWordDecodesWellFormed : Prop :=
  ∀ w : Word, (decode w).wellFormed = true ∧ decodeTableWord 32 w.toNat = some (decode w)

/-- R55: "Dispatch is a pure function of the opcode field", bits 5:0 (D1, D2, notes/assumptions/11.md). The
opcode number of a well-formed instruction determines its constructor, so the opcode field does. -/
def Obligations.OpcodeFieldSelectsTheInstruction : Prop :=
  ∀ w : Word, (decode w).wellFormed = true ∧ (decode w).opcode = w.extractLsb' 0 6

/-- R51 to R53, R56, R57: where a decoded instruction takes its register or condition and its operand from.
The positions are the spec's decision D1 (notes/assumptions/11.md). -/
def Obligations.FlagsSelectTheOperandLayout : Prop :=
  (∀ (w : Word) (r : Reg) (o : Operand),
    (decode w = .load r o ∨ decode w = .store r o ∨ decode w = .add r o ∨ decode w = .sub r o) →
      r.val = (w.extractLsb' 8 4).toNat ∧ OperandLayout w o) ∧
  (∀ (w : Word) (c : Cond) (o : Operand),
    (decode w = .branch c o ∨ decode w = .call c o) →
      c.selector = w.extractLsb' 8 4 ∧ c.wellFormed = true ∧ OperandLayout w o) ∧
  (∀ (w : Word) (o : Operand), (decode w = .push o ∨ decode w = .pop o) → OperandLayout w o)

/-- Words written out from the encoding, one or more of each format: those of 95_test_vectors.md 2.1, and
from 2.4 and 2.5 a RET and a PUSH with don't-care bits set. The words rest on the spec's decisions D1 to D5
(notes/assumptions/11.md); that the don't-care bits are dropped is R61, decision D21
(notes/assumptions/16.md). -/
def Obligations.KnownWordsDecode : Prop :=
  decode 0x00005042 = .load 0 (.imm 5) ∧
  decode 0xFFFFF342 = .load 3 (.imm 0xFFFFF) ∧
  decode 0xFFFCF283 = .store 2 (.mem (.idx 15 0xFFFC)) ∧
  decode 0x7FFF2185 = .sub 1 (.mem (.idx 2 0x7FFF)) ∧
  decode 0x00007606 = .branch .le (.mem (.abs 7)) ∧
  decode 0x00081087 = .call .nc (.mem (.idx 1 8)) ∧
  decode 0xFFFFFFC8 = .ret ∧
  decode 0x00007549 = .push (.imm 7) ∧
  decode 0xFFFFF00A = .pop (.mem (.abs 0xFFFFF)) ∧
  decode 0xABCDE020 = .unknown32to63 32

/-! ### Load, the reset -/

/-- 10_state.md R27: reset is a load. The model's reset is the load of the empty image with no debugger
attached, its own choice (notes/assumptions/1.md, notes/assumptions/3.md), and so is the value of `fault_addr` (notes/assumptions/2.md); that `x[15]` is
0xFFFFFFFF there is the spec's decision D11; `epoch` is the model's counter. -/
def Obligations.ResetIsTheLoadOfTheEmptyImage : Prop :=
  ∀ s : State, State.load ⟨0, 0, 0, [], []⟩ false s = .next { State.reset with epoch := s.epoch + 1 }

/-- 70_reset_and_hazards.md R175: what a load leaves, from any state, and that nothing of the previous run
survives it (`fault_addr`, which R27 leaves unspecified, and the model's counter `epoch` apart). That the
loader may supply only the `dataend` static words is R180 and the model's choice (notes/assumptions/8.md); `x[15]` with no data word is the spec's
decision D11. -/
def Obligations.LoadInstallsTheImageAndResets : Prop :=
  ∀ (img : Image) (attached : Bool) (s : State),
    img.dataend ≤ img.datasize →
    img.text.length = img.textsize.toNat →
    (img.data.length = img.datasize.toNat ∨ img.data.length = img.dataend.toNat) →
    ∃ t, State.load img attached s = .next t ∧
      t.textsize = img.textsize ∧ t.datasize = img.datasize ∧ t.dataend = img.dataend ∧
      (∀ a : Word, a.toNat < img.text.length → textRead a t = img.text[a.toNat]?) ∧
      (∀ e : Word, e.toNat < img.data.length → some (memRead e t) = img.data[e.toNat]?) ∧
      (∀ r : Reg, r ≠ 15 → getReg r t = 0) ∧ getReg 15 t = img.datasize - 1 ∧
      t.pc = 0 ∧ t.cc = .undefined ∧ t.faultKind = none ∧ t.dbg = attached ∧ t.run = .running ∧
      ∀ s' : State, ∃ t', State.load img attached s' = .next t' ∧
        { t' with epoch := 0, faultAddr := 0 } = { t with epoch := 0, faultAddr := 0 }

/-- R178: a load whose image breaks a precondition is refused (D12; notes/assumptions/8.md). -/
def Obligations.LoadRefusesABrokenImage : Prop :=
  ∀ (img : Image) (attached : Bool) (s : State),
    (img.datasize < img.dataend ∨ img.text.length ≠ img.textsize.toNat ∨
      (img.data.length ≠ img.datasize.toNat ∧ img.data.length ≠ img.dataend.toNat)) →
    State.load img attached s = .refused .badImage

/-- A load leaves a state with the invariant, whatever the state before (R175, R178). -/
def Obligations.LoadEstablishesTheInvariant : Prop :=
  ∀ (img : Image) (attached : Bool) (s t : State), State.load img attached s = .next t → Inv t

/-- The state after reset has the invariant. -/
def Obligations.ResetSatisfiesTheInvariant : Prop := Inv State.reset

/-- R180: the image as 32-bit units stands for its tuple. -/
def Obligations.ImageWordsRoundTrip : Prop :=
  ∀ img : Image, img.text.length = img.textsize.toNat → Image.ofWords img.toWords = some img

/-! ### The step -/

/-- 40_step_and_addressing.md R75: a RUNNING core with `pc < textsize` fetches the word at `pc`, increments
`pc`, executes the decoded instruction and, if the core is left RUNNING with a debugger attached, raises the
debug hook (R185), whose answer is a free value (notes/assumptions/5.md). That the hook is not raised after HALT
or a fault, and changes nothing but dbg and the model's counter `hooks`, is the spec's decision D17
(notes/assumptions/12.md). -/
def Obligations.StepRunsTheDecodedInstruction : Prop :=
  ∀ (s : State) (w : Word) (i : Instr),
    s.run = .running → s.pc < s.textsize → textRead s.pc s = some w → decode w = i →
    i.wellFormed = true ∧
    step s =
      match exec i { s with pc := s.pc + 1 } with
      | .next t =>
        if t.run = .running ∧ t.dbg = true then
          .next { t with dbg := Config.keepDebugging t.epoch t.hooks, hooks := t.hooks + 1 }
        else .next t
      | .fault r => .fault r
      | .refused r => .refused r

/-- R76: a fetch at or past `textsize` takes a text-segmentation fault at the `pc` that could not be
fetched, and changes nothing else. The spec's decision D7 (notes/assumptions/11.md). -/
def Obligations.FetchPastTheTextFaults : Prop :=
  ∀ s : State, s.run = .running → s.textsize ≤ s.pc →
    step s = .next { s with run := .faulted, faultKind := some .textSegmentation, faultAddr := s.pc }

/-- 10_state.md R20: no step is defined but in RUNNING. The spec's decisions D14 and D23; that the model
answers its outcomes `fault` and `refused` there is its own choice (notes/assumptions/7.md). -/
def Obligations.StepIsDefinedOnlyWhileRunning : Prop :=
  ∀ s : State,
    (s.run = .halted → step s = .fault .halted) ∧
    (s.run = .faulted → step s = .fault .faulted) ∧
    (s.run = .empty → step s = .refused .notLoaded)

/-- Every step keeps the invariant of a loaded core. It rests on the text-segmentation fault of D7
(notes/assumptions/11.md) and on the read-only debugger of D17 (notes/assumptions/12.md). -/
def Obligations.StepKeepsTheInvariant : Prop :=
  ∀ s t : State, Inv s → step s = .next t → Inv t

/-- A RUNNING core with the invariant always has a next state: the model never stops it. That a fault of the
program is a next state is the model's choice (notes/assumptions/7.md), that a failed fetch is one the spec's
decision D7 (notes/assumptions/11.md). -/
def Obligations.RunningCoreAlwaysSteps : Prop :=
  ∀ s : State, Inv s → s.run = .running → ∃ t, step s = .next t

/-- 20_memory.md R44 and 10_state.md R19: text and the limits are constant during a run, so that a fetch
never observes a store. -/
def Obligations.RunNeverChangesTextOrLimits : Prop :=
  ∀ s t : State, Reaches s t →
    t.text = s.text ∧ (∀ a : Word, textRead a t = textRead a s) ∧
    t.textsize = s.textsize ∧ t.datasize = s.datasize ∧ t.dataend = s.dataend

/-- 70_reset_and_hazards.md R185: "a run with a debugger attached reaches exactly the same states as one
without". That the debugger is read-only is the spec's decision D17 (notes/assumptions/12.md). -/
def Obligations.DebuggerDoesNotChangeTheRun : Prop :=
  ∀ (k : Nat) (s s' : State), SameButDebugger s s' →
    match drive k s, drive k s' with
    | .next t, .next t' => SameButDebugger t t'
    | .fault r, .fault r' => r = r'
    | .refused r, .refused r' => r = r'
    | .next _, .fault _ | .next _, .refused _ | .fault _, .next _ | .fault _, .refused _
    | .refused _, .next _ | .refused _, .fault _ => False

/-- R22, R185: "once detached, debug mode never re-attaches during that run", and the hook is not raised
again. `hooks` is the model's counter (notes/assumptions/5.md). -/
def Obligations.DetachedDebuggerStaysDetached : Prop :=
  ∀ s t : State, s.dbg = false → Reaches s t → t.dbg = false ∧ t.hooks = s.hooks

/-- R185: an attached debugger is asked exactly after a step that leaves the core RUNNING, and then answers
once; the answer is a free value (notes/assumptions/5.md). Not after HALT or a fault: decision D17. -/
def Obligations.HookIsRaisedWhileRunning : Prop :=
  ∀ s t : State, step s = .next t → s.dbg = true →
    (t.run = .running → t.hooks = s.hooks + 1 ∧ t.dbg = Config.keepDebugging s.epoch s.hooks) ∧
    (t.run ≠ .running → t.hooks = s.hooks ∧ t.dbg = true)

/-! ### What each instruction does -/

/-- 45_system.md R140. -/
def Obligations.NopDoesNothing : Prop := ∀ s : State, exec .nop s = .next s

/-- R142: HALT ends the run and writes nothing else. -/
def Obligations.HaltEndsTheRun : Prop := ∀ s : State, exec .halt s = .next { s with run := .halted }

/-- R141: ILLOP always takes an illegal-instruction fault at its own address. -/
def Obligations.IllopTakesAFault : Prop :=
  ∀ s : State, exec .illop s =
    .next { s with run := .faulted, faultKind := some .illegalInstruction, faultAddr := s.pc - 1 }

/-- R143: every unknown opcode takes an unknown-instruction fault at its own address. -/
def Obligations.UnknownOpcodesTakeAFault : Prop :=
  ∀ (i : Instr) (op : BitVec 6) (s : State),
    (i = .unknown12to15 op ∨ i = .unknown16to31 op ∨ i = .unknown32to63 op) →
    exec i s =
      .next { s with run := .faulted, faultKind := some .unknownInstruction, faultAddr := s.pc - 1 }

/-- 41_data_transfer.md R95. That an immediate is sign-extended is the spec's decision D4. -/
def Obligations.LoadWritesItsRegister : Prop :=
  ∀ (rd : Reg) (src : Operand) (s : State),
    (∀ v, operandValue src s = some v → ∃ c, SignOf v c ∧
      exec (.load rd src) s = .next { s with regs := s.regs.set rd v, cc := c }) ∧
    (operandValue src s = none → exec (.load rd src) s = .next (faultTaken .dataSegmentation s))

/-- R96: STORE writes one data word, and nothing where it faults. -/
def Obligations.StoreWritesOneWord : Prop :=
  ∀ (rs : Reg) (s : State),
    (∀ m, effectiveAddress m s < s.datasize → ∃ t, exec (.store rs (.mem m)) s = .next t ∧
      { t with data := s.data } = s ∧ memRead (effectiveAddress m s) t = getReg rs s ∧
      ∀ b, b ≠ effectiveAddress m s → memRead b t = memRead b s) ∧
    (∀ m, s.datasize ≤ effectiveAddress m s →
      exec (.store rs (.mem m)) s = .next (faultTaken .dataSegmentation s)) ∧
    (∀ n, exec (.store rs (.imm n)) s = .next (faultTaken .immediateForbidden s))

/-- 42_arithmetic.md R106. That the sum wraps modulo 2^32, and that cc is the sign of the wrapped sum, is
the spec's decision D6 (notes/assumptions/13.md); the sign extension of an immediate is D4. -/
def Obligations.AddWritesTheWrappedSum : Prop :=
  ∀ (rd : Reg) (src : Operand) (s : State),
    (∀ v, operandValue src s = some v → ∃ r c, r.toNat = ((getReg rd s).toNat + v.toNat) % 2 ^ 32 ∧
      SignOf r c ∧ exec (.add rd src) s = .next { s with regs := s.regs.set rd r, cc := c }) ∧
    (operandValue src s = none → exec (.add rd src) s = .next (faultTaken .dataSegmentation s))

/-- R107: register minus operand. The wrap is the spec's decision D6 (notes/assumptions/13.md); the sign
extension of an immediate is D4. -/
def Obligations.SubWritesTheWrappedDifference : Prop :=
  ∀ (rd : Reg) (src : Operand) (s : State),
    (∀ v, operandValue src s = some v → ∃ r c,
      (r.toNat : Int) = ((getReg rd s).toNat - v.toNat : Int) % 2 ^ 32 ∧
      SignOf r c ∧ exec (.sub rd src) s = .next { s with regs := s.regs.set rd r, cc := c }) ∧
    (operandValue src s = none → exec (.sub rd src) s = .next (faultTaken .dataSegmentation s))

/-- 43_control_transfer.md R116. The order of its two faults is the spec's decision D9, the row of the
condition table for an undefined cc is D24 (notes/assumptions/14.md). -/
def Obligations.BranchSetsPcIfTheConditionHolds : Prop :=
  ∀ (c : Cond) (s : State),
    (∀ m, conditionTable c s.cc = some true →
      exec (.branch c (.mem m)) s = .next { s with pc := effectiveAddress m s }) ∧
    (∀ m, conditionTable c s.cc = some false → exec (.branch c (.mem m)) s = .next s) ∧
    (∀ m, conditionTable c s.cc = none →
      exec (.branch c (.mem m)) s = .next (faultTaken .invalidCondition s)) ∧
    (∀ n, exec (.branch c (.imm n)) s = .next (faultTaken .immediateForbidden s))

/-- R117, R131: a taken CALL pushes `pc` at the decremented stack pointer and jumps to the address computed
before the pointer moved (D10); where the decremented pointer is out of bounds it faults with that pointer
kept (D16). The stack shape is D8, the fault order D9, the row of the condition table for an undefined cc is D24. -/
def Obligations.CallPushesPcAndJumps : Prop :=
  ∀ (c : Cond) (s : State) (p : Word), p = getReg Config.sp s - 1 →
    (∀ m, conditionTable c s.cc = some true → s.dataend ≤ p ∧ p < s.datasize →
      ∃ t, exec (.call c (.mem m)) s = .next t ∧
        { t with data := s.data } = { s with regs := s.regs.set Config.sp p, pc := effectiveAddress m s } ∧
        memRead p t = s.pc ∧ ∀ b, b ≠ p → memRead b t = memRead b s) ∧
    (∀ m, conditionTable c s.cc = some true → ¬ (s.dataend ≤ p ∧ p < s.datasize) →
      exec (.call c (.mem m)) s =
        .next { faultTaken .stackSegmentation s with regs := s.regs.set Config.sp p }) ∧
    (∀ m, conditionTable c s.cc = some false → exec (.call c (.mem m)) s = .next s) ∧
    (∀ m, conditionTable c s.cc = none →
      exec (.call c (.mem m)) s = .next (faultTaken .invalidCondition s)) ∧
    (∀ n, exec (.call c (.imm n)) s = .next (faultTaken .immediateForbidden s))

/-- R118, 44_stack.md R132: RET increments the stack pointer and loads `pc` with the word the old pointer
addressed. Which word is read and the guard `p < datasize` are the spec's decision D8; that the adjusted
pointer is kept at a fault is D16. -/
def Obligations.RetPopsPc : Prop :=
  ∀ (s : State) (p : Word), p = getReg Config.sp s →
    (s.dataend ≤ p + 1 ∧ p + 1 < s.datasize ∧ p < s.datasize →
      exec .ret s = .next { s with regs := s.regs.set Config.sp (p + 1), pc := memRead p s }) ∧
    (¬ (s.dataend ≤ p + 1 ∧ p + 1 < s.datasize ∧ p < s.datasize) →
      exec .ret s = .next { faultTaken .stackSegmentation s with regs := s.regs.set Config.sp (p + 1) })

/-- R133, R131: PUSH decrements the stack pointer and stores the operand there. The operand is evaluated
first and its fault comes first (D9, D10); that an immediate is sign-extended (R79, R58) is the spec's
decision D4 (notes/assumptions/11.md); the stack shape is D8; the adjusted pointer is kept at a stack fault
(D16). -/
def Obligations.PushStoresItsOperand : Prop :=
  ∀ (src : Operand) (s : State) (p : Word), p = getReg Config.sp s - 1 →
    (∀ v, operandValue src s = some v → s.dataend ≤ p ∧ p < s.datasize →
      ∃ t, exec (.push src) s = .next t ∧
        { t with data := s.data } = { s with regs := s.regs.set Config.sp p } ∧
        memRead p t = v ∧ ∀ b, b ≠ p → memRead b t = memRead b s) ∧
    (∀ v, operandValue src s = some v → ¬ (s.dataend ≤ p ∧ p < s.datasize) →
      exec (.push src) s =
        .next { faultTaken .stackSegmentation s with regs := s.regs.set Config.sp p }) ∧
    (operandValue src s = none → exec (.push src) s = .next (faultTaken .dataSegmentation s))

/-- R134, R132: POP stores the word the old stack pointer addressed at its destination, whose address is
computed before the pointer moves. Which word is read and the guard are the spec's decision D8; the fault
order is D9; the adjusted pointer is kept at a stack fault (D16). -/
def Obligations.PopStoresTheStackTop : Prop :=
  ∀ (s : State) (p : Word), p = getReg Config.sp s →
    (∀ m, effectiveAddress m s < s.datasize →
      s.dataend ≤ p + 1 ∧ p + 1 < s.datasize ∧ p < s.datasize →
      ∃ t, exec (.pop (.mem m)) s = .next t ∧
        { t with data := s.data } = { s with regs := s.regs.set Config.sp (p + 1) } ∧
        memRead (effectiveAddress m s) t = memRead p s ∧
        ∀ b, b ≠ effectiveAddress m s → memRead b t = memRead b s) ∧
    (∀ m, effectiveAddress m s < s.datasize →
      ¬ (s.dataend ≤ p + 1 ∧ p + 1 < s.datasize ∧ p < s.datasize) →
      exec (.pop (.mem m)) s =
        .next { faultTaken .stackSegmentation s with regs := s.regs.set Config.sp (p + 1) }) ∧
    (∀ m, s.datasize ≤ effectiveAddress m s →
      exec (.pop (.mem m)) s = .next (faultTaken .dataSegmentation s)) ∧
    (∀ n, exec (.pop (.imm n)) s = .next (faultTaken .immediateForbidden s))

/-! ### Faults -/

/-- 60_exceptions.md R154, in the terms of the decoded operand: an immediate-forbidden fault is taken
exactly by STORE, BRANCH, CALL and POP in immediate mode, and nothing but the record changes. That it wins
over an invalid condition is the spec's decision D9. -/
def Obligations.ImmediateForbiddenFaultsExactly : Prop :=
  ∀ (i : Instr) (s t : State), s.faultKind = none → exec i s = .next t →
    (t.faultKind = some .immediateForbidden ↔ forbiddenImmediate i = true) ∧
    (forbiddenImmediate i = true → t = faultTaken .immediateForbidden s)

/-- R153: an invalid-condition fault is taken exactly by BRANCH and CALL, not in immediate mode, with a
selector outside 0..6, whatever cc is, and before any state changes. That the immediate-forbidden fault of
R81 comes first is the spec's decision D9 (R159), the selector numbers are D3 (notes/assumptions/11.md). -/
def Obligations.InvalidConditionFaultsExactly : Prop :=
  ∀ (i : Instr) (s t : State), s.faultKind = none → exec i s = .next t →
    (t.faultKind = some .invalidCondition ↔ invalidSelector i = true ∧ forbiddenImmediate i = false) ∧
    (invalidSelector i = true → forbiddenImmediate i = false → t = faultTaken .invalidCondition s)

/-- R155: a data-segmentation fault is taken exactly by an access whose resolved address is `≥ datasize`,
before any mutation, and only the instruction's own address is recorded. -/
def Obligations.DataSegmentationFaultsExactly : Prop :=
  ∀ (i : Instr) (s t : State), s.faultKind = none → exec i s = .next t →
    (t.faultKind = some .dataSegmentation ↔ dataOutOfBounds i s = true) ∧
    (dataOutOfBounds i s = true → t = faultTaken .dataSegmentation s)

/-- R156: a stack-segmentation fault is taken exactly by a stack instruction that no earlier check stopped
and that would leave the stack pointer out of bounds, and the adjusted pointer is kept. The guard of R132 is
the spec's decision D8, the order D9, the pointer kept D16 (notes/assumptions/11.md); which CALL is taken
under an undefined cc is the row D24 of the table of R115 (notes/assumptions/14.md). -/
def Obligations.StackSegmentationFaultsExactly : Prop :=
  ∀ (i : Instr) (s t : State), s.faultKind = none → exec i s = .next t →
    (t.faultKind = some .stackSegmentation ↔
      forbiddenImmediate i = false ∧ dataOutOfBounds i s = false ∧ stackOutOfBounds i s = true) ∧
    (t.faultKind = some .stackSegmentation →
      ∃ p, adjustedPointer i s = some p ∧ getReg Config.sp t = p ∧ t.faultAddr = s.pc - 1)

/-- R159: a step takes the first fault whose condition holds in the fixed order, and takes none where none
holds. The order is the spec's decision D9, its first item D7, the guard of R132 D8 (notes/assumptions/11.md);
which CALL is taken under an undefined cc is the row D24 of the table of R115 (notes/assumptions/14.md). -/
def Obligations.StepTakesTheFirstFault : Prop :=
  ∀ s : State, Inv s → s.run = .running → ∃ t, step s = .next t ∧
    t.faultKind =
      if s.textsize ≤ s.pc then some .textSegmentation
      else
        match textRead s.pc s with
        | some w => firstFault (decode w) { s with pc := s.pc + 1 }
        | none => none

/-- R162: what a faulting instruction changes besides the record. That the adjusted stack pointer is kept is
the spec's decision D16; which CALL is taken under an undefined cc is D24 (notes/assumptions/14.md). -/
def Obligations.FaultKeepsThePreciseState : Prop :=
  ∀ (i : Instr) (s t : State) (k : FaultKind),
    s.faultKind = none → exec i s = .next t → t.faultKind = some k →
    (k ≠ .stackSegmentation → t = faultTaken k s) ∧
    (k = .stackSegmentation → ∃ p, adjustedPointer i s = some p ∧
      t = { faultTaken k s with regs := s.regs.set Config.sp p })

/-- R157: a fault is recorded, with the text address of the step's own instruction (or of the failed fetch),
in the step that takes it, and the record never changes again in that run. That a failed fetch is a fault,
recorded at its `pc` (R76, R158), is the spec's decision D7 (notes/assumptions/11.md); that FAULTED is left by a
load only is D23, that no step leads on from it the model's outcome `fault` (notes/assumptions/7.md). -/
def Obligations.FaultRecordIsLatched : Prop :=
  (∀ s t : State, s.run = .running → s.faultKind = none → step s = .next t →
    (t.run = .faulted ↔ t.faultKind.isSome = true) ∧ (t.run = .faulted → t.faultAddr = s.pc)) ∧
  (∀ s t : State, s.run = .faulted → Reaches s t → t = s)

/-! ### The condition code -/

/-- 42_arithmetic.md R105: after LOAD, ADD and SUB, unless they faulted, cc is the sign of the register they
wrote and is not undefined; every other instruction, and every one that faulted, leaves cc as it was. That it is
the wrapped result of ADD and SUB that is classified (R108) is the spec's decision D6 (notes/assumptions/13.md). -/
def Obligations.CcIsTheSignOfTheResult : Prop :=
  ∀ (i : Instr) (s t : State), s.run ≠ .faulted → exec i s = .next t →
    (∀ rd src, (i = .load rd src ∨ i = .add rd src ∨ i = .sub rd src) → t.run ≠ .faulted →
      SignOf (getReg rd t) t.cc ∧ t.cc ≠ .undefined) ∧
    ((t.run = .faulted ∨ ∀ rd src, i ≠ .load rd src ∧ i ≠ .add rd src ∧ i ≠ .sub rd src) →
      t.cc = s.cc)

/-- 10_state.md R17: cc is read by BRANCH and CALL only; changing it changes nothing else that any other
instruction does. -/
def Obligations.CcIsReadOnlyByBranchAndCall : Prop :=
  ∀ (i : Instr) (s : State) (c : CC), (∀ k o, i ≠ .branch k o ∧ i ≠ .call k o) →
    ∃ t t', exec i s = .next t ∧ exec i { s with cc := c } = .next t' ∧
      { t' with cc := .undefined } = { t with cc := .undefined }

/-- R115: the evaluation of a condition is the truth table. Its row for an undefined cc is the spec's
decision D24 (notes/assumptions/14.md), the selector numbers D3. -/
def Obligations.ConditionsFollowTheTable : Prop :=
  ∀ (c : Cond) (s : State),
    (∀ b, conditionTable c s.cc = some b → condHolds c s = .ok b) ∧
    (conditionTable c s.cc = none → condHolds c s = .error (faultTaken .invalidCondition s))

/-! ### The program counter -/

/-- R14: `pc` after a step whose word was fetched at `a = pc`. The clause on a failed fetch (R76) rests on the
spec's decision D7; which word RET reads (R118, R132), and where CALL pushed its return address (R117, R131), on
the stack shape D8; that CALL takes its target from the stack pointer before the push (R83) is D10
(notes/assumptions/11.md); which BRANCH or CALL is taken is the table of R115, its row for an undefined cc D24
(notes/assumptions/14.md). -/
def Obligations.PcAfterAStep : Prop :=
  (∀ (s t : State) (w : Word), s.run = .running → s.pc < s.textsize → textRead s.pc s = some w →
    step s = .next t →
    (t.run = .faulted → t.pc = s.pc + 1) ∧
    (∀ c m, decode w = .branch c (.mem m) ∨ decode w = .call c (.mem m) → t.run ≠ .faulted →
      t.pc = if conditionTable c s.cc = some true then effectiveAddress m s else s.pc + 1) ∧
    (∀ c m, decode w = .call c (.mem m) → t.run ≠ .faulted → conditionTable c s.cc = some true →
      memRead (getReg Config.sp t) t = s.pc + 1) ∧
    (decode w = .ret → t.run ≠ .faulted → t.pc = memRead (getReg Config.sp s) s) ∧
    ((∀ c o, decode w ≠ .branch c o ∧ decode w ≠ .call c o) → decode w ≠ .ret → t.pc = s.pc + 1)) ∧
  (∀ s t : State, s.run = .running → s.textsize ≤ s.pc → step s = .next t → t.pc = s.pc)

/-! ### Frames -/

/-- LOAD, ADD, SUB: only the destination register and cc change, and at a fault only the record
(R95, R106, R107, 10_state.md R11, R17). -/
def Obligations.RegisterResultFrame : Prop :=
  ∀ (i : Instr) (rd : Reg) (src : Operand) (s t : State),
    (i = .load rd src ∨ i = .add rd src ∨ i = .sub rd src) → exec i s = .next t →
    (∀ r, r ≠ rd → getReg r t = getReg r s) ∧ t.pc = s.pc ∧ (∀ b, memRead b t = memRead b s) ∧
    (s.run ≠ .faulted → t.run = .faulted → getReg rd t = getReg rd s ∧ t.cc = s.cc) ∧
    SameSurroundings s t ∧ SameRunOrFault s t

/-- STORE: only the data word at its effective address changes, no word in immediate mode or at a fault
(R96, 10_state.md R11, R17). -/
def Obligations.StoreFrame : Prop :=
  ∀ (rs : Reg) (dst : Operand) (s t : State), exec (.store rs dst) s = .next t →
    (∀ r, getReg r t = getReg r s) ∧ t.cc = s.cc ∧ t.pc = s.pc ∧
    (∀ m, dst = .mem m → ∀ b, b ≠ effectiveAddress m s → memRead b t = memRead b s) ∧
    (∀ n, dst = .imm n → ∀ b, memRead b t = memRead b s) ∧
    (∀ m, dst = .mem m → s.datasize ≤ effectiveAddress m s → ∀ b, memRead b t = memRead b s) ∧
    SameSurroundings s t ∧ SameRunOrFault s t

/-- PUSH and CALL: only the stack pointer and the data word at the decremented stack pointer change (and
`pc`, by CALL); a CALL whose condition does not hold, or in immediate mode, changes none of the three (R133,
R117, 10_state.md R11, R17). The stack shape is the spec's decision D8, the condition table's row for an undefined cc
D24 (notes/assumptions/14.md). -/
def Obligations.PushAndCallFrame : Prop :=
  ∀ (i : Instr) (s t : State),
    ((∃ src, i = .push src) ∨ ∃ c o, i = .call c o) → exec i s = .next t →
    (∀ r, r ≠ Config.sp → getReg r t = getReg r s) ∧ t.cc = s.cc ∧
    (∀ b, b ≠ getReg Config.sp s - 1 → memRead b t = memRead b s) ∧
    (∀ src, i = .push src → t.pc = s.pc) ∧
    (∀ c o, i = .call c o → (conditionTable c s.cc ≠ some true ∨ ∃ n, o = .imm n) →
      getReg Config.sp t = getReg Config.sp s ∧ t.pc = s.pc ∧ ∀ b, memRead b t = memRead b s) ∧
    SameSurroundings s t ∧ SameRunOrFault s t

/-- POP: only the stack pointer and the data word at its effective address change, no word in immediate mode
(R134, 10_state.md R11, R17). -/
def Obligations.PopFrame : Prop :=
  ∀ (dst : Operand) (s t : State), exec (.pop dst) s = .next t →
    (∀ r, r ≠ Config.sp → getReg r t = getReg r s) ∧ t.cc = s.cc ∧ t.pc = s.pc ∧
    (∀ m, dst = .mem m → ∀ b, b ≠ effectiveAddress m s → memRead b t = memRead b s) ∧
    (∀ n, dst = .imm n → getReg Config.sp t = getReg Config.sp s ∧ ∀ b, memRead b t = memRead b s) ∧
    SameSurroundings s t ∧ SameRunOrFault s t

/-- NOP, ILLOP, HALT, the unknown opcodes, BRANCH and RET store nothing; of them only RET changes a register,
the stack pointer; HALT writes the run state (10_state.md R11, R17, 20_memory.md R34). -/
def Obligations.NothingStoredFrame : Prop :=
  ∀ (i : Instr) (s t : State),
    (i = .nop ∨ i = .illop ∨ i = .halt ∨ unknownOpcode i = true ∨ (∃ c o, i = .branch c o) ∨ i = .ret) →
    exec i s = .next t →
    (∀ r, r ≠ Config.sp ∨ i ≠ .ret → getReg r t = getReg r s) ∧ t.cc = s.cc ∧
    (∀ b, memRead b t = memRead b s) ∧ SameSurroundings s t ∧
    (i ≠ .halt → SameRunOrFault s t) ∧
    (i = .halt → t.run = .halted ∧ t.faultKind = s.faultKind ∧ t.faultAddr = s.faultAddr)

/-! ### The stack -/

/-- 44_stack.md R136: (a) PUSH then POP gives the value back and restores the pointer, provided it was below
`datasize`, and from a pointer equal to `datasize` the PUSH succeeds where a stack region exists and the POP
faults; (b) after a stack instruction that did not fault the pointer is in bounds; (c) a stack instruction
that faulted wrote no data word. The stack shape is the spec's decision D8, that a pushed immediate is
sign-extended D4 (notes/assumptions/11.md); which CALL is taken under an undefined cc is the row D24 of the table
of R115 (notes/assumptions/14.md). -/
def Obligations.StackInstructionsPairUp : Prop :=
  (∀ (src : Operand) (v : Word) (m : Address) (pc' : Word) (s t : State),
    s.run = .running → operandValue src s = some v → exec (.push src) s = .next t → t.run = .running →
    effectiveAddress m t < s.datasize →
    (getReg Config.sp s < s.datasize →
      ∃ u, exec (.pop (.mem m)) { t with pc := pc' } = .next u ∧ u.run = .running ∧
        memRead (effectiveAddress m t) u = v ∧ getReg Config.sp u = getReg Config.sp s) ∧
    (getReg Config.sp s = s.datasize →
      ∃ u, exec (.pop (.mem m)) { t with pc := pc' } = .next u ∧
        u.faultKind = some .stackSegmentation)) ∧
  (∀ (src : Operand) (v : Word) (s : State),
    s.run = .running → operandValue src s = some v → getReg Config.sp s = s.datasize →
    s.dataend < s.datasize →
    ∃ t, exec (.push src) s = .next t ∧ t.run = .running ∧ memRead (s.datasize - 1) t = v) ∧
  (∀ (i : Instr) (s t : State), s.run = .running → (adjustedPointer i s).isSome = true →
    exec i s = .next t →
    (t.run ≠ .faulted → StackPointerInBounds t) ∧
    (t.run = .faulted → ∀ b, memRead b t = memRead b s))

/-- 43_control_transfer.md R119: a taken CALL, then RET in any state whose limits, stack pointer and pushed
word are those the CALL left, resumes after the CALL with the stack pointer restored, provided the pointer
before the CALL was below `datasize`. The stack shape is the spec's decision D8, the condition table's row for
an undefined cc D24 (notes/assumptions/14.md). -/
def Obligations.CallThenRetResumes : Prop :=
  ∀ (c : Cond) (m : Address) (s t u : State),
    s.run = .running → conditionTable c s.cc = some true → exec (.call c (.mem m)) s = .next t →
    t.run = .running → getReg Config.sp s < s.datasize →
    u.dataend = s.dataend → u.datasize = s.datasize → getReg Config.sp u = getReg Config.sp t →
    memRead (getReg Config.sp t) u = memRead (getReg Config.sp t) t →
    ∃ v, exec .ret u = .next v ∧ v.run = u.run ∧ v.pc = s.pc ∧ getReg Config.sp v = getReg Config.sp s

/-- R135: from the load-time stack pointer exactly `datasize - 1 - dataend` words can be pushed: more PUSHes
never complete, and so many immediates do, the first at `data[datasize - 2]` and the others below it. The
stack shape is the spec's decision D8, that a pushed immediate is sign-extended D4 (notes/assumptions/11.md). -/
def Obligations.StackHoldsItsCapacity : Prop :=
  (∀ (srcs : List Operand) (s t : State), s.run = .running → getReg Config.sp s = s.datasize - 1 →
    srcs ≠ [] → execAll (srcs.map Instr.push) s = .next t → t.run = .running →
    srcs.length + 1 + s.dataend.toNat ≤ s.datasize.toNat) ∧
  (∀ (ns : List (BitVec 20)) (s : State), s.run = .running → getReg Config.sp s = s.datasize - 1 →
    ns.length + 1 + s.dataend.toNat ≤ s.datasize.toNat →
    ∃ t, execAll (ns.map fun n => Instr.push (.imm n)) s = .next t ∧ t.run = .running ∧
      (getReg Config.sp t).toNat + ns.length + 1 = s.datasize.toNat ∧
      ∀ k n, ns[k]? = some n → memRead (BitVec.ofNat 32 (s.datasize.toNat - 2 - k)) t = n.signExtend 32)

/-- R131: PUSH and CALL store in the stack region only, and RET nowhere: a word of the static region
`[0, dataend)` survives them. The stack shape is the spec's decision D8. -/
def Obligations.PushesStayOutOfTheStaticRegion : Prop :=
  ∀ (i : Instr) (s t : State) (b : Word),
    ((∃ src, i = .push src) ∨ (∃ c o, i = .call c o) ∨ i = .ret) → exec i s = .next t →
    b < s.dataend → memRead b t = memRead b s

/-- 10_state.md R29: (a) `dataend ≤ datasize` at all times after load; (b) the stack pointer is in bounds
after every PUSH, POP, taken CALL and RET that did not fault. Which CALL is taken under an undefined cc is the
spec's decision D24 (R115, notes/assumptions/14.md). -/
def Obligations.LimitAndStackPointerInvariants : Prop :=
  (∀ (img : Image) (attached : Bool) (s t u : State),
    State.load img attached s = .next t → Reaches t u → u.dataend ≤ u.datasize) ∧
  (∀ (i : Instr) (s t : State), s.run ≠ .faulted → exec i s = .next t → t.run ≠ .faulted →
    ((∃ src, i = .push src) ∨ (∃ dst, i = .pop dst) ∨ i = .ret ∨
      ∃ c o, i = .call c o ∧ conditionTable c s.cc = some true) →
    s.dataend ≤ getReg 15 t ∧ getReg 15 t < s.datasize)

/-! ### Addresses and the report -/

/-- 40_step_and_addressing.md R80: the absolute address verbatim, the indexed one modulo 2^32 with a signed
offset. The widths 20 and 16 are the spec's decision D5. -/
def Obligations.EffectiveAddressWraps : Prop :=
  ∀ s : State,
    (∀ a : BitVec 20, (effectiveAddress (.abs a) s).toNat = a.toNat) ∧
    (∀ (r : Reg) (off : BitVec 16), ((effectiveAddress (.idx r off) s).toNat : Int) =
      ((getReg r s).toNat + off.toInt) % 2 ^ 32)

/-- 60_exceptions.md R165, R166: HALTED reports success with no fault, FAULTED a non-zero status. The codes
0 and `EXIT_FAIL_STATUS` are the spec's decision D25, the code of NONE D15. -/
def Obligations.ExitReportTellsHaltFromFault : Prop :=
  ∀ s : State, Inv s →
    (s.run = .halted → exitOk s = some true ∧ exitStatus s = some 0 ∧ (outputs s).faultKind = 0) ∧
    (s.run = .faulted → exitOk s = some false ∧ (∃ n, exitStatus s = some n ∧ n ≠ 0) ∧
      (outputs s).faultKind ≠ 0)

/-! ### Fetch, continuation and the illegal instruction -/

/-- 20_memory.md R31: at any time after a load, below `textsize` the text reads as the word the loader
installed, at and above it as nothing; and there the step does not read it, since with any other text it does
the same. -/
def Obligations.TextWordsAreTheImages : Prop :=
  ∀ (img : Image) (attached : Bool) (s t u : State), State.load img attached s = .next t → Reaches t u →
    (∀ a : Word, a < u.textsize → (textRead a u).isSome = true ∧ textRead a u = img.text[a.toNat]?) ∧
    (∀ a : Word, u.textsize ≤ a → textRead a u = none) ∧
    (∀ (m : Memory) (v v' : State), u.run = .running → u.textsize ≤ u.pc →
      step u = .next v → step { u with text := m } = .next v' → v' = { v with text := m })

/-- 40_step_and_addressing.md R85: an instruction that completes without a fault leaves the run RUNNING, and
the next step fetches at the current `pc`; HALT, and nothing else, ends it. -/
def Obligations.EveryInstructionButHaltContinues : Prop :=
  ∀ (s t : State) (w : Word), s.run = .running → s.pc < s.textsize → textRead s.pc s = some w →
    step s = .next t → t.run ≠ .faulted →
    (decode w = .halt → t.run = .halted) ∧
    (decode w ≠ .halt → t.run = .running ∧
      ∀ w', t.pc < t.textsize → textRead t.pc t = some w' → step t = runWord w' t)

/-- 60_exceptions.md R151: an illegal-instruction fault is taken by ILLOP and only by ILLOP, in every state,
with its own address and nothing else recorded. -/
def Obligations.IllegalInstructionFaultsExactly : Prop :=
  ∀ (i : Instr) (s t : State), s.faultKind = none → exec i s = .next t →
    (t.faultKind = some .illegalInstruction ↔ i = .illop) ∧
    (i = .illop → t = faultTaken .illegalInstruction s)
end

