-- ==== Sys2Proof/Laws/Decode.lean ====
section
/-! SUPPORT. The fields of a packed word. -/

namespace Sys2Proof

/-- Each bit of a packed word is a bit of one of its fields (30_encoding.md R51). -/
theorem packWord_getLsbD (operand : BitVec 20) (regcond : BitVec 4) (x i : BitVec 1) (op : BitVec 6) (k : Nat) :
    (packWord operand regcond x i op).getLsbD k =
      if k < 6 then op.getLsbD k
      else if k - 6 < 1 then i.getLsbD (k - 6)
      else if k - 6 - 1 < 1 then x.getLsbD (k - 6 - 1)
      else if k - 6 - 1 - 1 < 4 then regcond.getLsbD (k - 6 - 1 - 1)
      else operand.getLsbD (k - 6 - 1 - 1 - 4) := by
  show BitVec.getLsbD (w := 20 + 4 + 1 + 1 + 6) (operand ++ regcond ++ x ++ i ++ op) k = _
  simp only [BitVec.getLsbD_append]

theorem packWord_opcode (operand : BitVec 20) (regcond : BitVec 4) (x i : BitVec 1) (op : BitVec 6) :
    (packWord operand regcond x i op).extractLsb' 0 6 = op := by
  apply BitVec.eq_of_getLsbD_eq
  intro k hk
  simp [packWord_getLsbD, hk]

/-- A run of bits inside the operand field of a packed word. -/
theorem packWord_operand (operand : BitVec 20) (regcond : BitVec 4) (x i : BitVec 1) (op : BitVec 6)
    {start len : Nat} (hl : start + len ≤ 20) :
    (packWord operand regcond x i op).extractLsb' (12 + start) len = operand.extractLsb' start len := by
  apply BitVec.eq_of_getLsbD_eq
  intro k hk
  have h1 : ¬ 12 + start + k < 6 := by omega
  have h2 : ¬ 12 + start + k - 6 < 1 := by omega
  have h3 : ¬ 12 + start + k - 6 - 1 < 1 := by omega
  have h4 : ¬ 12 + start + k - 6 - 1 - 1 < 4 := by omega
  have h5 : 12 + start + k - 6 - 1 - 1 - 4 = start + k := by omega
  simp only [BitVec.getLsbD_extractLsb', packWord_getLsbD, hk, if_neg h1, if_neg h2, if_neg h3, if_neg h4, h5]

/-- The fields of a packed word are the fields it was packed from. -/
theorem fields_packWord (operand : BitVec 20) (regcond : BitVec 4) (x i : BitVec 1) (op : BitVec 6) :
    fields (packWord operand regcond x i op) =
      { op := op, immFlag := i.getLsbD 0, idxFlag := x.getLsbD 0, regcond := regcond
        imm20 := operand, abs20 := operand
        rindex := operand.extractLsb' 0 4, off16 := operand.extractLsb' 4 16 } := by
  have hop := packWord_opcode operand regcond x i op
  have hi : (packWord operand regcond x i op).getLsbD 6 = i.getLsbD 0 := by
    rw [packWord_getLsbD]; simp
  have hx : (packWord operand regcond x i op).getLsbD 7 = x.getLsbD 0 := by
    rw [packWord_getLsbD]; simp
  have hr : (packWord operand regcond x i op).extractLsb' 8 4 = regcond := by
    apply BitVec.eq_of_getLsbD_eq
    intro k hk
    have h1 : ¬ 8 + k < 6 := by omega
    have h2 : ¬ 8 + k - 6 < 1 := by omega
    have h3 : ¬ 8 + k - 6 - 1 < 1 := by omega
    have h4 : 8 + k - 6 - 1 - 1 = k := by omega
    simp only [BitVec.getLsbD_extractLsb', packWord_getLsbD, hk, if_neg h1, if_neg h2, if_neg h3, h4,
      decide_true, Bool.true_and, ↓reduceIte]
  have ho20 := packWord_operand operand regcond x i op (start := 0) (len := 20) (by omega)
  have ho4 := packWord_operand operand regcond x i op (start := 0) (len := 4) (by omega)
  have ho16 := packWord_operand operand regcond x i op (start := 4) (len := 16) (by omega)
  have hfull : operand.extractLsb' 0 20 = operand := by simp
  simp only [fields, Fields.mk.injEq]
  exact ⟨hop, hi, hx, hr, ho20.trans hfull, ho20.trans hfull, ho4, ho16⟩

end Sys2Proof
end

