-- ==== Sys2Proof/Laws/Memory.lean ====
section
/-! SUPPORT. Reading after writing, and the canonical form that every memory operation keeps. -/

namespace Sys2Proof.Machine

/-! ### Reading after writing -/

theorem Memory.read_write_same (m : Memory) (a : Nat) (v : Word) :
    Memory.read (Memory.write m a v) a = some v := by
  induction m with
  | nil => simp [Memory.write, Memory.read]
  | cons c m ih =>
    obtain ⟨k, u⟩ := c
    by_cases hlt : a < k
    · simp [Memory.write, Memory.read, hlt]
    · by_cases heq : a = k
      · simp [Memory.write, Memory.read, heq]
      · simp [Memory.write, Memory.read, hlt, heq, Ne.symm heq, ih]

theorem Memory.read_write_other (m : Memory) {a b : Nat} (v : Word) (h : b ≠ a) :
    Memory.read (Memory.write m a v) b = Memory.read m b := by
  induction m with
  | nil => simp [Memory.write, Memory.read, Ne.symm h]
  | cons c m ih =>
    obtain ⟨k, u⟩ := c
    by_cases hlt : a < k
    · simp [Memory.write, Memory.read, hlt, Ne.symm h]
    · by_cases heq : a = k
      · subst heq; simp [Memory.write, Memory.read, Ne.symm h]
      · simp [Memory.write, Memory.read, hlt, heq, ih]

@[simp] theorem memRead_memWrite_same (e v : Word) (s : State) : memRead e (memWrite e v s) = v := by
  simp [memRead, memWrite, Memory.read_write_same]

theorem memRead_memWrite_other {b e : Word} (v : Word) (s : State) (h : b ≠ e) :
    memRead b (memWrite e v s) = memRead b s := by
  have hne : b.toNat ≠ e.toNat := fun he => h (BitVec.eq_of_toNat_eq he)
  simp [memRead, memWrite, Memory.read_write_other _ _ hne]

/-! ### The canonical form -/

/-- Every address listed after a write was listed before, or is the address written. -/
theorem Memory.mem_write {m : Memory} {a : Nat} {v : Word} {c : Cell} (h : c ∈ Memory.write m a v) :
    c = (a, v) ∨ c ∈ m := by
  induction m with
  | nil => simpa [Memory.write] using h
  | cons d m ih =>
    obtain ⟨k, u⟩ := d
    simp only [Memory.write] at h
    split at h
    · simpa using h
    · split at h
      · rcases List.mem_cons.1 h with h | h
        · exact .inl h
        · exact .inr (List.mem_cons_of_mem _ h)
      · rcases List.mem_cons.1 h with h | h
        · exact .inr (h ▸ List.mem_cons_self)
        · exact (ih h).imp_right (List.mem_cons_of_mem _)

theorem Memory.write_wf {m : Memory} (a : Nat) (v : Word) (h : Memory.wf m) :
    Memory.wf (Memory.write m a v) := by
  induction m with
  | nil => simp [Memory.write, Memory.wf]
  | cons d m ih =>
    obtain ⟨k, u⟩ := d
    obtain ⟨hk, hm⟩ := List.pairwise_cons.1 h
    simp only [Memory.write]
    split
    · rename_i hlt
      refine List.pairwise_cons.2 ⟨fun c hc => ?_, h⟩
      rcases List.mem_cons.1 hc with rfl | hc
      · exact hlt
      · exact Nat.lt_trans hlt (hk c hc)
    · split
      · rename_i heq
        subst heq
        exact List.pairwise_cons.2 ⟨hk, hm⟩
      · rename_i hlt heq
        refine List.pairwise_cons.2 ⟨fun c hc => ?_, ih hm⟩
        rcases Memory.mem_write hc with rfl | hc
        · show k < a
          omega
        · exact hk c hc

/-- A write below a bound keeps every listed address below it. -/
theorem Memory.write_below {m : Memory} {a n : Nat} {v : Word} (h : ∀ c ∈ m, c.1 < n) (ha : a < n) :
    ∀ c ∈ Memory.write m a v, c.1 < n := fun c hc => by
  rcases Memory.mem_write hc with rfl | hc
  · exact ha
  · exact h c hc

/-! ### Memories installed by a load -/

theorem Memory.mem_ofWords {vs : List Word} {a : Nat} {c : Cell} (h : c ∈ Memory.ofWords a vs) :
    a ≤ c.1 ∧ c.1 < a + vs.length := by
  induction vs generalizing a with
  | nil => simp [Memory.ofWords] at h
  | cons v vs ih =>
    rcases List.mem_cons.1 h with rfl | h
    · simp
    · have := ih h
      simp only [List.length_cons]
      omega

theorem Memory.ofWords_wf (a : Nat) (vs : List Word) : Memory.wf (Memory.ofWords a vs) := by
  induction vs generalizing a with
  | nil => simp [Memory.ofWords, Memory.wf]
  | cons v vs ih =>
    refine List.pairwise_cons.2 ⟨fun c hc => ?_, ih (a + 1)⟩
    have := Memory.mem_ofWords hc
    omega

theorem Memory.read_ofWords (a : Nat) (vs : List Word) (k : Nat) :
    Memory.read (Memory.ofWords a vs) (a + k) = vs[k]? := by
  induction vs generalizing a k with
  | nil => simp [Memory.ofWords, Memory.read]
  | cons v vs ih =>
    cases k with
    | zero => simp [Memory.ofWords, Memory.read]
    | succ k =>
      have hne : a ≠ a + (k + 1) := by omega
      have := ih (a + 1) k
      simp only [Memory.ofWords, Memory.read, if_neg hne, List.getElem?_cons_succ, ← this]
      congr 1
      omega

/-- The memory of the reset state is in canonical form. -/
theorem reset_memory_wf : Memory.wf State.reset.text ∧ Memory.wf State.reset.data := by
  simp [State.reset, Memory.wf]

/-! ### The machine's memory operations keep the form -/

theorem memWrite_data_wf {s : State} (e v : Word) (h : Memory.wf s.data) : Memory.wf (memWrite e v s).data :=
  Memory.write_wf _ _ h

theorem memWrite_data_below {s : State} {e : Word} (v : Word) (h : ∀ c ∈ s.data, c.1 < s.datasize.toNat)
    (he : e < s.datasize) : ∀ c ∈ (memWrite e v s).data, c.1 < s.datasize.toNat :=
  Memory.write_below h (BitVec.lt_def.1 he)

end Sys2Proof.Machine
end

