-- ==== Sys2Proof/Laws/State.lean ====
section
/-! SUPPORT. What each update of the state leaves in each field, and what register and memory reads see
after it. -/

namespace Sys2Proof.Machine

variable (s : State)

/-! ### After `setReg` -/

@[simp] theorem setReg_regs (r : Reg) (v : Word) : (setReg r v s).regs = s.regs.set r v := rfl
@[simp] theorem setReg_pc (r : Reg) (v : Word) : (setReg r v s).pc = s.pc := rfl
@[simp] theorem setReg_cc (r : Reg) (v : Word) : (setReg r v s).cc = s.cc := rfl
@[simp] theorem setReg_textsize (r : Reg) (v : Word) : (setReg r v s).textsize = s.textsize := rfl
@[simp] theorem setReg_datasize (r : Reg) (v : Word) : (setReg r v s).datasize = s.datasize := rfl
@[simp] theorem setReg_dataend (r : Reg) (v : Word) : (setReg r v s).dataend = s.dataend := rfl
@[simp] theorem setReg_run (r : Reg) (v : Word) : (setReg r v s).run = s.run := rfl
@[simp] theorem setReg_faultKind (r : Reg) (v : Word) : (setReg r v s).faultKind = s.faultKind := rfl
@[simp] theorem setReg_faultAddr (r : Reg) (v : Word) : (setReg r v s).faultAddr = s.faultAddr := rfl
@[simp] theorem setReg_dbg (r : Reg) (v : Word) : (setReg r v s).dbg = s.dbg := rfl
@[simp] theorem setReg_text (r : Reg) (v : Word) : (setReg r v s).text = s.text := rfl
@[simp] theorem setReg_data (r : Reg) (v : Word) : (setReg r v s).data = s.data := rfl
@[simp] theorem setReg_epoch (r : Reg) (v : Word) : (setReg r v s).epoch = s.epoch := rfl
@[simp] theorem setReg_hooks (r : Reg) (v : Word) : (setReg r v s).hooks = s.hooks := rfl
@[simp] theorem memRead_setReg (b : Word) (r : Reg) (v : Word) : memRead b (setReg r v s) = memRead b s := rfl
@[simp] theorem textRead_setReg (b : Word) (r : Reg) (v : Word) : textRead b (setReg r v s) = textRead b s := rfl

/-! ### After `memWrite` -/

@[simp] theorem memWrite_regs (e v : Word) : (memWrite e v s).regs = s.regs := rfl
@[simp] theorem memWrite_pc (e v : Word) : (memWrite e v s).pc = s.pc := rfl
@[simp] theorem memWrite_cc (e v : Word) : (memWrite e v s).cc = s.cc := rfl
@[simp] theorem memWrite_textsize (e v : Word) : (memWrite e v s).textsize = s.textsize := rfl
@[simp] theorem memWrite_datasize (e v : Word) : (memWrite e v s).datasize = s.datasize := rfl
@[simp] theorem memWrite_dataend (e v : Word) : (memWrite e v s).dataend = s.dataend := rfl
@[simp] theorem memWrite_run (e v : Word) : (memWrite e v s).run = s.run := rfl
@[simp] theorem memWrite_faultKind (e v : Word) : (memWrite e v s).faultKind = s.faultKind := rfl
@[simp] theorem memWrite_faultAddr (e v : Word) : (memWrite e v s).faultAddr = s.faultAddr := rfl
@[simp] theorem memWrite_dbg (e v : Word) : (memWrite e v s).dbg = s.dbg := rfl
@[simp] theorem memWrite_text (e v : Word) : (memWrite e v s).text = s.text := rfl
@[simp] theorem memWrite_data (e v : Word) : (memWrite e v s).data = Memory.write s.data e.toNat v := rfl
@[simp] theorem memWrite_epoch (e v : Word) : (memWrite e v s).epoch = s.epoch := rfl
@[simp] theorem memWrite_hooks (e v : Word) : (memWrite e v s).hooks = s.hooks := rfl
@[simp] theorem getReg_memWrite (q : Reg) (e v : Word) : getReg q (memWrite e v s) = getReg q s := rfl
@[simp] theorem textRead_memWrite (b : Word) (e v : Word) : textRead b (memWrite e v s) = textRead b s := rfl

/-! ### After `setPc` -/

@[simp] theorem setPc_regs (p : Word) : (setPc p s).regs = s.regs := rfl
@[simp] theorem setPc_pc (p : Word) : (setPc p s).pc = p := rfl
@[simp] theorem setPc_cc (p : Word) : (setPc p s).cc = s.cc := rfl
@[simp] theorem setPc_textsize (p : Word) : (setPc p s).textsize = s.textsize := rfl
@[simp] theorem setPc_datasize (p : Word) : (setPc p s).datasize = s.datasize := rfl
@[simp] theorem setPc_dataend (p : Word) : (setPc p s).dataend = s.dataend := rfl
@[simp] theorem setPc_run (p : Word) : (setPc p s).run = s.run := rfl
@[simp] theorem setPc_faultKind (p : Word) : (setPc p s).faultKind = s.faultKind := rfl
@[simp] theorem setPc_faultAddr (p : Word) : (setPc p s).faultAddr = s.faultAddr := rfl
@[simp] theorem setPc_dbg (p : Word) : (setPc p s).dbg = s.dbg := rfl
@[simp] theorem setPc_text (p : Word) : (setPc p s).text = s.text := rfl
@[simp] theorem setPc_data (p : Word) : (setPc p s).data = s.data := rfl
@[simp] theorem setPc_epoch (p : Word) : (setPc p s).epoch = s.epoch := rfl
@[simp] theorem setPc_hooks (p : Word) : (setPc p s).hooks = s.hooks := rfl
@[simp] theorem getReg_setPc (q : Reg) (p : Word) : getReg q (setPc p s) = getReg q s := rfl
@[simp] theorem memRead_setPc (b : Word) (p : Word) : memRead b (setPc p s) = memRead b s := rfl
@[simp] theorem textRead_setPc (b : Word) (p : Word) : textRead b (setPc p s) = textRead b s := rfl

/-! ### After `setCc` -/

@[simp] theorem setCc_regs (c : CC) : (setCc c s).regs = s.regs := rfl
@[simp] theorem setCc_pc (c : CC) : (setCc c s).pc = s.pc := rfl
@[simp] theorem setCc_cc (c : CC) : (setCc c s).cc = c := rfl
@[simp] theorem setCc_textsize (c : CC) : (setCc c s).textsize = s.textsize := rfl
@[simp] theorem setCc_datasize (c : CC) : (setCc c s).datasize = s.datasize := rfl
@[simp] theorem setCc_dataend (c : CC) : (setCc c s).dataend = s.dataend := rfl
@[simp] theorem setCc_run (c : CC) : (setCc c s).run = s.run := rfl
@[simp] theorem setCc_faultKind (c : CC) : (setCc c s).faultKind = s.faultKind := rfl
@[simp] theorem setCc_faultAddr (c : CC) : (setCc c s).faultAddr = s.faultAddr := rfl
@[simp] theorem setCc_dbg (c : CC) : (setCc c s).dbg = s.dbg := rfl
@[simp] theorem setCc_text (c : CC) : (setCc c s).text = s.text := rfl
@[simp] theorem setCc_data (c : CC) : (setCc c s).data = s.data := rfl
@[simp] theorem setCc_epoch (c : CC) : (setCc c s).epoch = s.epoch := rfl
@[simp] theorem setCc_hooks (c : CC) : (setCc c s).hooks = s.hooks := rfl
@[simp] theorem getReg_setCc (q : Reg) (c : CC) : getReg q (setCc c s) = getReg q s := rfl
@[simp] theorem memRead_setCc (b : Word) (c : CC) : memRead b (setCc c s) = memRead b s := rfl
@[simp] theorem textRead_setCc (b : Word) (c : CC) : textRead b (setCc c s) = textRead b s := rfl

/-! ### After `updateCc` -/

@[simp] theorem updateCc_regs (v : Word) : (updateCc v s).regs = s.regs := rfl
@[simp] theorem updateCc_pc (v : Word) : (updateCc v s).pc = s.pc := rfl
@[simp] theorem updateCc_cc (v : Word) : (updateCc v s).cc = ccOf v := rfl
@[simp] theorem updateCc_textsize (v : Word) : (updateCc v s).textsize = s.textsize := rfl
@[simp] theorem updateCc_datasize (v : Word) : (updateCc v s).datasize = s.datasize := rfl
@[simp] theorem updateCc_dataend (v : Word) : (updateCc v s).dataend = s.dataend := rfl
@[simp] theorem updateCc_run (v : Word) : (updateCc v s).run = s.run := rfl
@[simp] theorem updateCc_faultKind (v : Word) : (updateCc v s).faultKind = s.faultKind := rfl
@[simp] theorem updateCc_faultAddr (v : Word) : (updateCc v s).faultAddr = s.faultAddr := rfl
@[simp] theorem updateCc_dbg (v : Word) : (updateCc v s).dbg = s.dbg := rfl
@[simp] theorem updateCc_text (v : Word) : (updateCc v s).text = s.text := rfl
@[simp] theorem updateCc_data (v : Word) : (updateCc v s).data = s.data := rfl
@[simp] theorem updateCc_epoch (v : Word) : (updateCc v s).epoch = s.epoch := rfl
@[simp] theorem updateCc_hooks (v : Word) : (updateCc v s).hooks = s.hooks := rfl
@[simp] theorem getReg_updateCc (q : Reg) (v : Word) : getReg q (updateCc v s) = getReg q s := rfl
@[simp] theorem memRead_updateCc (b : Word) (v : Word) : memRead b (updateCc v s) = memRead b s := rfl
@[simp] theorem textRead_updateCc (b : Word) (v : Word) : textRead b (updateCc v s) = textRead b s := rfl

/-! ### After `stopRun` -/

@[simp] theorem stopRun_regs : (stopRun s).regs = s.regs := rfl
@[simp] theorem stopRun_pc : (stopRun s).pc = s.pc := rfl
@[simp] theorem stopRun_cc : (stopRun s).cc = s.cc := rfl
@[simp] theorem stopRun_textsize : (stopRun s).textsize = s.textsize := rfl
@[simp] theorem stopRun_datasize : (stopRun s).datasize = s.datasize := rfl
@[simp] theorem stopRun_dataend : (stopRun s).dataend = s.dataend := rfl
@[simp] theorem stopRun_run : (stopRun s).run = .halted := rfl
@[simp] theorem stopRun_faultKind : (stopRun s).faultKind = s.faultKind := rfl
@[simp] theorem stopRun_faultAddr : (stopRun s).faultAddr = s.faultAddr := rfl
@[simp] theorem stopRun_dbg : (stopRun s).dbg = s.dbg := rfl
@[simp] theorem stopRun_text : (stopRun s).text = s.text := rfl
@[simp] theorem stopRun_data : (stopRun s).data = s.data := rfl
@[simp] theorem stopRun_epoch : (stopRun s).epoch = s.epoch := rfl
@[simp] theorem stopRun_hooks : (stopRun s).hooks = s.hooks := rfl
@[simp] theorem getReg_stopRun (q : Reg) : getReg q (stopRun s) = getReg q s := rfl
@[simp] theorem memRead_stopRun (b : Word) : memRead b (stopRun s) = memRead b s := rfl
@[simp] theorem textRead_stopRun (b : Word) : textRead b (stopRun s) = textRead b s := rfl

/-! ### After `raiseAt` -/

@[simp] theorem raiseAt_regs (k : FaultKind) (a : Word) : (raiseAt k a s).regs = s.regs := rfl
@[simp] theorem raiseAt_pc (k : FaultKind) (a : Word) : (raiseAt k a s).pc = s.pc := rfl
@[simp] theorem raiseAt_cc (k : FaultKind) (a : Word) : (raiseAt k a s).cc = s.cc := rfl
@[simp] theorem raiseAt_textsize (k : FaultKind) (a : Word) : (raiseAt k a s).textsize = s.textsize := rfl
@[simp] theorem raiseAt_datasize (k : FaultKind) (a : Word) : (raiseAt k a s).datasize = s.datasize := rfl
@[simp] theorem raiseAt_dataend (k : FaultKind) (a : Word) : (raiseAt k a s).dataend = s.dataend := rfl
@[simp] theorem raiseAt_run (k : FaultKind) (a : Word) : (raiseAt k a s).run = .faulted := rfl
@[simp] theorem raiseAt_faultKind (k : FaultKind) (a : Word) : (raiseAt k a s).faultKind = some k := rfl
@[simp] theorem raiseAt_faultAddr (k : FaultKind) (a : Word) : (raiseAt k a s).faultAddr = a := rfl
@[simp] theorem raiseAt_dbg (k : FaultKind) (a : Word) : (raiseAt k a s).dbg = s.dbg := rfl
@[simp] theorem raiseAt_text (k : FaultKind) (a : Word) : (raiseAt k a s).text = s.text := rfl
@[simp] theorem raiseAt_data (k : FaultKind) (a : Word) : (raiseAt k a s).data = s.data := rfl
@[simp] theorem raiseAt_epoch (k : FaultKind) (a : Word) : (raiseAt k a s).epoch = s.epoch := rfl
@[simp] theorem raiseAt_hooks (k : FaultKind) (a : Word) : (raiseAt k a s).hooks = s.hooks := rfl
@[simp] theorem getReg_raiseAt (q : Reg) (k : FaultKind) (a : Word) : getReg q (raiseAt k a s) = getReg q s := rfl
@[simp] theorem memRead_raiseAt (b : Word) (k : FaultKind) (a : Word) : memRead b (raiseAt k a s) = memRead b s := rfl
@[simp] theorem textRead_raiseAt (b : Word) (k : FaultKind) (a : Word) : textRead b (raiseAt k a s) = textRead b s := rfl

/-! ### After `raise` -/

@[simp] theorem raise_regs (k : FaultKind) : (raise k s).regs = s.regs := rfl
@[simp] theorem raise_pc (k : FaultKind) : (raise k s).pc = s.pc := rfl
@[simp] theorem raise_cc (k : FaultKind) : (raise k s).cc = s.cc := rfl
@[simp] theorem raise_textsize (k : FaultKind) : (raise k s).textsize = s.textsize := rfl
@[simp] theorem raise_datasize (k : FaultKind) : (raise k s).datasize = s.datasize := rfl
@[simp] theorem raise_dataend (k : FaultKind) : (raise k s).dataend = s.dataend := rfl
@[simp] theorem raise_run (k : FaultKind) : (raise k s).run = .faulted := rfl
@[simp] theorem raise_faultKind (k : FaultKind) : (raise k s).faultKind = some k := rfl
@[simp] theorem raise_faultAddr (k : FaultKind) : (raise k s).faultAddr = s.pc - 1 := rfl
@[simp] theorem raise_dbg (k : FaultKind) : (raise k s).dbg = s.dbg := rfl
@[simp] theorem raise_text (k : FaultKind) : (raise k s).text = s.text := rfl
@[simp] theorem raise_data (k : FaultKind) : (raise k s).data = s.data := rfl
@[simp] theorem raise_epoch (k : FaultKind) : (raise k s).epoch = s.epoch := rfl
@[simp] theorem raise_hooks (k : FaultKind) : (raise k s).hooks = s.hooks := rfl
@[simp] theorem getReg_raise (q : Reg) (k : FaultKind) : getReg q (raise k s) = getReg q s := rfl
@[simp] theorem memRead_raise (b : Word) (k : FaultKind) : memRead b (raise k s) = memRead b s := rfl
@[simp] theorem textRead_raise (b : Word) (k : FaultKind) : textRead b (raise k s) = textRead b s := rfl

/-! ### Reads of registers after writes -/

@[simp] theorem getReg_setReg_same (r : Reg) (v : Word) : getReg r (setReg r v s) = v := by
  simp [getReg, setReg]

theorem getReg_setReg_other {q r : Reg} (v : Word) (h : q ≠ r) : getReg q (setReg r v s) = getReg q s := by
  have hne : (r : Nat) ≠ (q : Nat) := fun e => h (Fin.ext e.symm)
  simp [getReg, setReg, Vector.getElem_set_ne, hne]

theorem getReg_setReg (q r : Reg) (v : Word) :
    getReg q (setReg r v s) = if q = r then v else getReg q s := by
  by_cases h : q = r
  · subst h; simp
  · simp [h, getReg_setReg_other s v h]

/-- A register written twice holds the later value. -/
@[simp] theorem setReg_setReg_same (r : Reg) (u v : Word) : setReg r v (setReg r u s) = setReg r v s := by
  simp [setReg]

/-- Registers are equal when every index reads equal. -/
theorem regs_ext {s t : State} (h : ∀ r : Reg, getReg r s = getReg r t) : s.regs = t.regs :=
  Vector.ext fun i hi => h ⟨i, hi⟩

end Sys2Proof.Machine
end

