-- ==== Sys2Proof/Laws/Ops.lean ====
section
/-! SUPPORT. For each shared operation, once, everything it can do. Later proofs cite these lemmas and do
not unfold the operations. -/

namespace Sys2Proof.Machine

/-! ### Attempts -/

@[simp] theorem attempt_ok_bind {α β : Type} (a : α) (f : α → Attempt β) :
    ((Except.ok a : Attempt α) >>= f) = f a := rfl

@[simp] theorem attempt_error_bind {α β : Type} (t : State) (f : α → Attempt β) :
    ((Except.error t : Attempt α) >>= f) = .error t := rfl

@[simp] theorem attempt_pure {α : Type} (a : α) : (pure a : Attempt α) = .ok a := rfl

@[simp] theorem conclude_ok (t : State) : conclude (.ok t) = .next t := rfl

@[simp] theorem conclude_error (t : State) : conclude (.error t) = .next t := rfl

/-- An instruction answers a next state whether it completes or faults. -/
theorem conclude_next (x : Attempt State) : ∃ t, conclude x = .next t := by
  cases x <;> exact ⟨_, rfl⟩

/-! ### Operands -/

theorem word_lt_or_ge (a b : Word) : a < b ∨ b ≤ a := by
  rw [BitVec.lt_def, BitVec.le_def]
  omega


@[simp] theorem requireNotImmediate_imm (n : BitVec 20) (s : State) :
    requireNotImmediate (.imm n) s = .error (raise .immediateForbidden s) := rfl

@[simp] theorem requireNotImmediate_mem (m : Address) (s : State) : requireNotImmediate (.mem m) s = .ok m :=
  rfl

theorem checkDataBounds_in {e : Word} {s : State} (h : e < s.datasize) : checkDataBounds e s = .ok e := by
  simp [checkDataBounds, BitVec.not_le.2 h]

theorem checkDataBounds_out {e : Word} {s : State} (h : s.datasize ≤ e) :
    checkDataBounds e s = .error (raise .dataSegmentation s) := by
  simp [checkDataBounds, h]

/-- All that `sourceOperand` can answer. -/
theorem sourceOperand_cases (op : Operand) (s : State) :
    (∃ n, op = .imm n ∧ sourceOperand op s = .ok (sext n)) ∨
    (∃ m, op = .mem m ∧ effectiveAddress m s < s.datasize ∧
      sourceOperand op s = .ok (memRead (effectiveAddress m s) s)) ∨
    (∃ m, op = .mem m ∧ s.datasize ≤ effectiveAddress m s ∧
      sourceOperand op s = .error (raise .dataSegmentation s)) := by
  cases op with
  | imm n => exact .inl ⟨n, rfl, rfl⟩
  | mem m =>
    rcases word_lt_or_ge (effectiveAddress m s) s.datasize with h | h
    · exact .inr (.inl ⟨m, rfl, h, by simp [sourceOperand, checkDataBounds_in h]⟩)
    · exact .inr (.inr ⟨m, rfl, h, by simp [sourceOperand, checkDataBounds_out h]⟩)

/-- All that `destAddress` can answer. -/
theorem destAddress_cases (op : Operand) (s : State) :
    (∃ n, op = .imm n ∧ destAddress op s = .error (raise .immediateForbidden s)) ∨
    (∃ m, op = .mem m ∧ effectiveAddress m s < s.datasize ∧
      destAddress op s = .ok (effectiveAddress m s)) ∨
    (∃ m, op = .mem m ∧ s.datasize ≤ effectiveAddress m s ∧
      destAddress op s = .error (raise .dataSegmentation s)) := by
  cases op with
  | imm n => exact .inl ⟨n, rfl, rfl⟩
  | mem m =>
    rcases word_lt_or_ge (effectiveAddress m s) s.datasize with h | h
    · exact .inr (.inl ⟨m, rfl, h, by simp [destAddress, checkDataBounds_in h]⟩)
    · exact .inr (.inr ⟨m, rfl, h, by simp [destAddress, checkDataBounds_out h]⟩)

/-! ### Conditions -/

/-- All that `condHolds` can answer. -/
theorem condHolds_cases (c : Cond) (s : State) :
    (∃ b, condHolds c s = .ok b) ∨
    (∃ sel, c = .invalid sel ∧ condHolds c s = .error (raise .invalidCondition s)) := by
  cases c with
  | invalid sel => exact .inr ⟨sel, rfl, rfl⟩
  | nc | eq | ne | gt | ge | lt | le => exact .inl ⟨_, rfl⟩

/-- No result is classified as undefined. -/
theorem ccOf_ne_undefined (r : Word) : ccOf r ≠ .undefined := by
  unfold ccOf
  split
  · simp
  · split <;> simp

/-! ### The stack -/

theorem stackInBounds_iff (s : State) :
    stackInBounds s = true ↔ s.dataend ≤ getReg Config.sp s ∧ getReg Config.sp s < s.datasize := by
  simp [stackInBounds]

theorem checkStackBounds_in {s : State} (h : s.dataend ≤ getReg Config.sp s ∧ getReg Config.sp s < s.datasize) :
    checkStackBounds s = .ok s := by
  rw [checkStackBounds, if_pos ((stackInBounds_iff s).2 h)]

theorem checkStackBounds_out {s : State}
    (h : ¬ (s.dataend ≤ getReg Config.sp s ∧ getReg Config.sp s < s.datasize)) :
    checkStackBounds s = .error (raise .stackSegmentation s) := by
  rw [checkStackBounds, if_neg (mt (stackInBounds_iff s).1 h)]

/-- All that `stackPush` can answer, `p` being the adjusted pointer. -/
theorem stackPush_cases (v p : Word) (s : State) (hp : p = getReg Config.sp s - 1) :
    (s.dataend ≤ p ∧ p < s.datasize ∧ stackPush v s = .ok (memWrite p v (setReg Config.sp p s))) ∨
    (¬ (s.dataend ≤ p ∧ p < s.datasize) ∧
      stackPush v s = .error (raise .stackSegmentation (setReg Config.sp p s))) := by
  subst hp
  by_cases h : s.dataend ≤ getReg Config.sp s - 1 ∧ getReg Config.sp s - 1 < s.datasize
  · refine .inl ⟨h.1, h.2, ?_⟩
    rw [stackPush, checkStackBounds_in (by simpa only [getReg_setReg_same, setReg_dataend, setReg_datasize] using h)]
    simp only [attempt_ok_bind, attempt_pure, getReg_setReg_same]
  · refine .inr ⟨h, ?_⟩
    rw [stackPush, checkStackBounds_out (by simpa only [getReg_setReg_same, setReg_dataend, setReg_datasize] using h)]
    rfl

/-- All that `stackPop` can answer, `p` being the pointer before the adjustment. -/
theorem stackPop_cases (p : Word) (s : State) (hp : p = getReg Config.sp s) :
    (s.dataend ≤ p + 1 ∧ p + 1 < s.datasize ∧ p < s.datasize ∧
      stackPop s = .ok (memRead p s, setReg Config.sp (p + 1) s)) ∨
    (¬ (s.dataend ≤ p + 1 ∧ p + 1 < s.datasize ∧ p < s.datasize) ∧
      stackPop s = .error (raise .stackSegmentation (setReg Config.sp (p + 1) s))) := by
  subst hp
  have hp : getReg Config.sp s + 1 - 1 = getReg Config.sp s := by bv_omega
  by_cases h : s.dataend ≤ getReg Config.sp s + 1 ∧ getReg Config.sp s + 1 < s.datasize
  · have hc := checkStackBounds_in (s := setReg Config.sp (getReg Config.sp s + 1) s)
      (by simpa only [getReg_setReg_same, setReg_dataend, setReg_datasize] using h)
    by_cases hd : getReg Config.sp s < s.datasize
    · refine .inl ⟨h.1, h.2, hd, ?_⟩
      simp only [stackPop, hc, attempt_ok_bind, attempt_pure, getReg_setReg_same, hp, setReg_datasize,
        if_pos hd, memRead_setReg]
    · refine .inr ⟨fun hh => hd hh.2.2, ?_⟩
      simp only [stackPop, hc, attempt_ok_bind, getReg_setReg_same, hp, setReg_datasize, if_neg hd]
  · refine .inr ⟨fun hh => h ⟨hh.1, hh.2.1⟩, ?_⟩
    rw [stackPop, checkStackBounds_out (by simpa only [getReg_setReg_same, setReg_dataend, setReg_datasize] using h)]
    rfl

/-! ### The sequencer -/

/-- All that the debug hook can do. -/
theorem debugHook_cases (s : State) :
    (s.run = .running ∧ s.dbg = true ∧
      debugHook s = { s with dbg := Config.keepDebugging s.epoch s.hooks, hooks := s.hooks + 1 }) ∨
    (¬ (s.run = .running ∧ s.dbg = true) ∧ debugHook s = s) := by
  by_cases h : s.run = .running ∧ s.dbg = true
  · exact .inl ⟨h.1, h.2, by simp [debugHook, hookRaised, h.1, h.2]⟩
  · exact .inr ⟨h, if_neg (by simpa [hookRaised] using h)⟩

/-- All that `step` can answer. -/
theorem step_cases (s : State) :
    (s.run = .empty ∧ step s = .refused .notLoaded) ∨
    (s.run = .halted ∧ step s = .fault .halted) ∨
    (s.run = .faulted ∧ step s = .fault .faulted) ∨
    (s.run = .running ∧ s.textsize ≤ s.pc ∧ step s = .next (raiseAt .textSegmentation s.pc s)) ∨
    (s.run = .running ∧ s.pc < s.textsize ∧ textRead s.pc s = none ∧ step s = .refused .textMissing) ∨
    (∃ w, s.run = .running ∧ s.pc < s.textsize ∧ textRead s.pc s = some w ∧ step s = runWord w s) := by
  cases hr : s.run with
  | empty => exact .inl ⟨rfl, by simp [step, hr]⟩
  | halted => exact .inr (.inl ⟨rfl, by simp [step, hr]⟩)
  | faulted => exact .inr (.inr (.inl ⟨rfl, by simp [step, hr]⟩))
  | running =>
    refine .inr (.inr (.inr ?_))
    rcases word_lt_or_ge s.pc s.textsize with h | h
    · refine .inr ?_
      cases hw : textRead s.pc s with
      | none => exact .inl ⟨rfl, h, rfl, by simp [step, hr, runStep, BitVec.not_le.2 h, hw]⟩
      | some w => exact .inr ⟨w, rfl, h, rfl, by simp [step, hr, runStep, BitVec.not_le.2 h, hw]⟩
    · exact .inl ⟨rfl, h, by simp [step, hr, runStep, h]⟩

/-! ### Every meaning answers a next state -/

/-- No instruction ends in a fault or a refusal of the model: a fault of the program is a next state. -/
theorem exec_answers_next (i : Instr) (s : State) : ∃ t, exec i s = .next t := by
  cases i with
  | illop | nop | halt | unknown12to15 _ | unknown16to31 _ | unknown32to63 _ => exact ⟨_, rfl⟩
  | load _ _ | store _ _ | add _ _ | sub _ _ | branch _ _ | call _ _ | ret | push _ | pop _ =>
    exact conclude_next _

/-- `runWord` runs the decoded instruction at the advanced `pc`, then the hook. -/
theorem runWord_next {w : Word} {s t : State} (h : exec (decode w) (setPc (s.pc + 1) s) = .next t) :
    runWord w s = .next (debugHook t) := by
  rw [runWord, h]

end Sys2Proof.Machine
end

