-- ==== Sys2Proof/Laws/PerInstr.lean ====
section
/-! SUPPORT. Statements made for every instruction, one lemma per constructor. -/

namespace Sys2Proof.Laws.EncodedOpcode

/-- The low six bits of an instruction's encoding are its opcode (30_encoding.md R51, R55, R67). -/
def Statement (i : Instr) : Prop := i.wellFormed = true → (encode i).extractLsb' 0 6 = i.opcode

/-- The same for an encoding with an operand, whatever the operand. -/
theorem encodeWith_opcode (op : BitVec 6) (rc : BitVec 4) (operand : Operand) :
    (encodeWith op rc operand).extractLsb' 0 6 = op := by
  rcases operand with n | (a | ⟨r, off⟩) <;> exact packWord_opcode ..

theorem encodeNil_opcode (op : BitVec 6) : (encodeNil op).extractLsb' 0 6 = op := packWord_opcode ..

theorem illop : Statement .illop := fun _ => encodeNil_opcode _
theorem nop : Statement .nop := fun _ => encodeNil_opcode _
theorem load (rd : Reg) (src : Operand) : Statement (.load rd src) := fun _ => encodeWith_opcode ..
theorem store (rs : Reg) (dst : Operand) : Statement (.store rs dst) := fun _ => encodeWith_opcode ..
theorem add (rd : Reg) (src : Operand) : Statement (.add rd src) := fun _ => encodeWith_opcode ..
theorem sub (rd : Reg) (src : Operand) : Statement (.sub rd src) := fun _ => encodeWith_opcode ..
theorem branch (cond : Cond) (target : Operand) : Statement (.branch cond target) :=
  fun _ => encodeWith_opcode ..
theorem call (cond : Cond) (target : Operand) : Statement (.call cond target) :=
  fun _ => encodeWith_opcode ..
theorem ret : Statement .ret := fun _ => encodeNil_opcode _
theorem push (src : Operand) : Statement (.push src) := fun _ => encodeWith_opcode ..
theorem pop (dst : Operand) : Statement (.pop dst) := fun _ => encodeWith_opcode ..
theorem halt : Statement .halt := fun _ => encodeNil_opcode _
theorem unknown12to15 (op : BitVec 6) : Statement (.unknown12to15 op) := fun _ => encodeNil_opcode _
theorem unknown16to31 (op : BitVec 6) : Statement (.unknown16to31 op) := fun _ => encodeNil_opcode _
theorem unknown32to63 (op : BitVec 6) : Statement (.unknown32to63 op) := fun _ => encodeNil_opcode _

end Sys2Proof.Laws.EncodedOpcode
end

