-- ==== Sys2Proof/Tests/Slice0.lean ====
section
/-! SUPPORT. The model's own tests. Expected words and results are those of spec/95_test_vectors.md, which
derives them by hand from the rules; `witness_<name>` shows that the hypotheses of Obligations.<name> can be
met, in each of its clauses. -/

namespace Sys2Proof.Tests

open Sys2Proof.Machine Sys2Proof.Safety

/-! ### WellFormed refuses -/

theorem test_branch_selector_in_table_is_not_invalid : (Instr.branch (.invalid 6) (.imm 0)).wellFormed = false := by
  decide

theorem test_call_selector_in_table_is_not_invalid : (Instr.call (.invalid 3) (.imm 0)).wellFormed = false := by
  decide

theorem test_unknown12to15_range :
    (Instr.unknown12to15 11).wellFormed = false ∧ (Instr.unknown12to15 16).wellFormed = false := by decide

theorem test_unknown16to31_range :
    (Instr.unknown16to31 15).wellFormed = false ∧ (Instr.unknown16to31 32).wellFormed = false := by decide

theorem test_unknown32to63_range : (Instr.unknown32to63 31).wellFormed = false := by decide

/-! ### Decode: a word of every constructor (95_test_vectors.md 2.1 to 2.7) -/

theorem test_decode_illop : decode 0x00000000 = .illop ∧ decode 0xFFFFFFC0 = .illop := by decide

theorem test_decode_nop : decode 0x00000001 = .nop ∧ decode 0xFFFFFFC1 = .nop := by decide

/-- The third word has I and X set: immediate wins (R53). -/
theorem test_decode_load :
    decode 0x00064002 = .load 0 (.mem (.abs 100)) ∧ decode 0x80002182 = .load 1 (.mem (.idx 2 0x8000)) ∧
      decode 0x000091C2 = .load 1 (.imm 9) ∧ decode 0x80000142 = .load 1 (.imm 0x80000) := by decide

theorem test_decode_store :
    decode 0xFFFCF283 = .store 2 (.mem (.idx 15 0xFFFC)) ∧ decode 0x00003143 = .store 1 (.imm 3) := by decide

theorem test_decode_add : decode 0x00001F44 = .add 15 (.imm 1) ∧ decode 0x00002104 = .add 1 (.mem (.abs 2)) := by
  decide

theorem test_decode_sub : decode 0x7FFF2185 = .sub 1 (.mem (.idx 2 0x7FFF)) := by decide

theorem test_decode_branch :
    decode 0x00005006 = .branch .nc (.mem (.abs 5)) ∧ decode 0x00005106 = .branch .eq (.mem (.abs 5)) ∧
      decode 0x00005206 = .branch .ne (.mem (.abs 5)) ∧ decode 0x00005306 = .branch .gt (.mem (.abs 5)) ∧
      decode 0x00005406 = .branch .ge (.mem (.abs 5)) ∧ decode 0x00005506 = .branch .lt (.mem (.abs 5)) ∧
      decode 0x00005606 = .branch .le (.mem (.abs 5)) ∧ decode 0x00005706 = .branch (.invalid 7) (.mem (.abs 5)) ∧
      decode 0x00005946 = .branch (.invalid 9) (.imm 5) := by decide

theorem test_decode_call :
    decode 0x00081087 = .call .nc (.mem (.idx 1 8)) ∧ decode 0x00004F07 = .call (.invalid 15) (.mem (.abs 4)) := by
  decide

theorem test_decode_ret : decode 0x00000008 = .ret ∧ decode 0xFFFFFFC8 = .ret := by decide

/-- The second word has `regcond` = 5, a don't-care (R56). -/
theorem test_decode_push : decode 0x0000F089 = .push (.mem (.idx 15 0)) ∧ decode 0x00007549 = .push (.imm 7) := by
  decide

theorem test_decode_pop : decode 0xFFFFF00A = .pop (.mem (.abs 0xFFFFF)) ∧ decode 0x0000104A = .pop (.imm 1) := by
  decide

theorem test_decode_halt : decode 0x0000000B = .halt ∧ decode 0x00000FCB = .halt := by decide

theorem test_decode_unknown12to15 :
    decode 0x0000000C = .unknown12to15 12 ∧ decode 0x0000004C = .unknown12to15 12 ∧
      decode 0x0000000F = .unknown12to15 15 := by decide

theorem test_decode_unknown16to31 :
    decode 0x00000010 = .unknown16to31 16 ∧ decode 0x0000001F = .unknown16to31 31 := by decide

theorem test_decode_unknown32to63 :
    decode 0xABCDE020 = .unknown32to63 32 ∧ decode 0x0000003F = .unknown32to63 63 := by decide

/-- The encoder writes the canonical words of 95_test_vectors.md 2.1. -/
theorem test_encode :
    encode (.store 2 (.mem (.idx 15 0xFFFC))) = 0xFFFCF283 ∧ encode (.push (.imm 7)) = 0x00007049 ∧
      encode (.branch .le (.mem (.abs 7))) = 0x00007606 ∧ encode .halt = 0x0000000B := by decide

/-! ### One step on the machine M8 of 95_test_vectors.md -/

/-- DATA8. -/
def data8 : Memory := Memory.ofWords 0 [10, 20, 30, 40, 50, 60, 70, 80]

/-- M8 at `pc = 0` with the word `w` there: `datasize` 8, `dataend` 2, `x[15]` 7, `x[1]` and `cc` as given. -/
def m8 (w : Word) (x1 : Word := 0) (cc : CC := .undefined) : State :=
  { State.reset with
    regs := #v[0, x1, 3, 0, 0, 0, 0, 0, 0, 0, 0, 0, 0, 0, 0, 7]
    cc, textsize := 1, datasize := 8, dataend := 2, text := [(0, w)], data := data8 }

/-- M8 with another stack pointer. -/
def m8sp (w sp : Word) : State := setReg 15 sp (m8 w)

/-- The outcome is a next state of which `p` holds. -/
def nextWith (o : Host.Outcome State Fault Refusal) (p : State → Bool) : Bool :=
  match o with
  | .next t => p t
  | .fault _ | .refused _ => false

/-- The step ends in a fault of kind `k` recorded at address `a`. -/
def faultsAt (k : FaultKind) (a : Word) (s : State) : Bool :=
  nextWith (step s) fun t => decide (t.run = .faulted ∧ t.faultKind = some k ∧ t.faultAddr = a)

theorem test_nop : nextWith (step (m8 0x00000001)) (fun t => decide (t = setPc 1 (m8 0x00000001))) = true := by decide

theorem test_illop : faultsAt .illegalInstruction 0 (m8 0xFFFFFFC0) = true := by decide

theorem test_halt : nextWith (step (m8 0x0000000B)) (fun t => decide (t.run = .halted ∧ t.pc = 1 ∧ t.faultKind = none)) = true := by
  decide

theorem test_unknown12to15 : faultsAt .unknownInstruction 0 (m8 0x0000004C) = true := by decide

theorem test_unknown16to31 : faultsAt .unknownInstruction 0 (m8 0x0000001F) = true := by decide

theorem test_unknown32to63 : faultsAt .unknownInstruction 0 (m8 0xABCDE020) = true := by decide

/-- `LOAD R1,-1[R1]`: the index register is the destination. -/
theorem test_load_index_is_destination :
    nextWith (step (m8 0xFFFF1182 1)) (fun t => decide (getReg 1 t = 10 ∧ t.cc = .positive ∧ t.pc = 1)) = true := by
  decide

/-- `LOAD R1,@8` faults before the register and cc are written. -/
theorem test_load_first_invalid_address :
    nextWith (step (m8 0x00008102 0x55 .positive)) (fun t => decide
      (getReg 1 t = 0x55 ∧ t.cc = .positive ∧ t.pc = 1 ∧ t.faultKind = some .dataSegmentation)) = true := by decide

/-- `STORE R1,@3` keeps cc. -/
theorem test_store_keeps_cc :
    nextWith (step (m8 0x00003103 0xDEADBEEF .negative)) (fun t => decide
      (memRead 3 t = 0xDEADBEEF ∧ memRead 2 t = 30 ∧ t.cc = .negative)) = true := by decide

theorem test_store_immediate : faultsAt .immediateForbidden 0 (m8 0x000031C3 1) = true := by decide

/-- `ADD R1,0[R1]`. -/
theorem test_add_index_is_destination :
    nextWith (step (m8 0x00001184 3)) (fun t => decide (getReg 1 t = 43 ∧ t.cc = .positive)) = true := by decide

/-- `ADD R1,#1` on the largest signed number wraps. -/
theorem test_add_signed_overflow_wraps :
    nextWith (step (m8 0x00001144 0x7FFFFFFF)) (fun t => decide
      (getReg 1 t = 0x80000000 ∧ t.cc = .negative ∧ t.run = .running)) = true := by decide

/-- `SUB R1,@1`: register minus operand. -/
theorem test_sub_is_register_minus_operand :
    nextWith (step (m8 0x00001105 21)) (fun t => decide (getReg 1 t = 1 ∧ t.cc = .positive)) = true := by decide

/-- `SUB R1,#1` on the most negative number wraps. -/
theorem test_sub_signed_overflow_wraps :
    nextWith (step (m8 0x00001145 0x80000000)) (fun t => decide
      (getReg 1 t = 0x7FFFFFFF ∧ t.cc = .positive)) = true := by decide

/-- `BRANCH LE,@7` under N and `BRANCH GE,@5` under U. -/
theorem test_branch :
    nextWith (step (m8 0x00007606 0 .negative)) (fun t => decide (t.pc = 7)) = true ∧
      nextWith (step (m8 0x00005406)) (fun t => decide (t.pc = 1)) = true := by decide

/-- An invalid selector in immediate mode: the immediate comes first (R159). -/
theorem test_branch_fault_order :
    faultsAt .immediateForbidden 0 (m8 0x00005946) = true ∧ faultsAt .invalidCondition 0 (m8 0x00005F06) = true := by
  decide

/-- `CALL NC,1[R15]`: the target comes from the pointer before the push. -/
theorem test_call_target_before_push :
    nextWith (step (m8sp 0x0001F087 6)) (fun t => decide
      (getReg 15 t = 5 ∧ memRead 5 t = 1 ∧ memRead 6 t = 70 ∧ t.pc = 7)) = true := by decide

/-- `CALL NC,@4` with the stack full keeps the decremented pointer. -/
theorem test_call_stack_full :
    nextWith (step (m8sp 0x00004007 2)) (fun t => decide
      (getReg 15 t = 1 ∧ memRead 1 t = 20 ∧ t.pc = 1 ∧ t.faultKind = some .stackSegmentation)) = true := by decide

/-- RET with the pointer one below the stack region reads the word the old pointer addressed. -/
theorem test_ret_reads_below_the_new_pointer :
    nextWith (step (m8sp 0xFFFFFFC8 1)) (fun t => decide (getReg 15 t = 2 ∧ t.pc = 20 ∧ t.run = .running)) = true := by
  decide

/-- RET on the empty stack, and the guard of R132 at a pointer that wraps to 0. -/
theorem test_ret_faults :
    nextWith (step (m8 0x00000008)) (fun t => decide (getReg 15 t = 8 ∧ t.faultKind = some .stackSegmentation)) = true ∧
      nextWith (step { m8sp 0x00000008 0xFFFFFFFF with dataend := 0 }) (fun t => decide
        (getReg 15 t = 0 ∧ t.faultKind = some .stackSegmentation)) = true := by decide

/-- `PUSH 0[R15]` duplicates the top. -/
theorem test_push_top :
    nextWith (step (m8sp 0x0000F089 5)) (fun t => decide
      (getReg 15 t = 4 ∧ memRead 4 t = 60 ∧ memRead 3 t = 40)) = true := by decide

/-- `PUSH @8` with the stack full: the data bound comes first and the pointer has not moved. -/
theorem test_push_fault_order :
    nextWith (step (m8sp 0x00008009 2)) (fun t => decide
      (getReg 15 t = 2 ∧ t.faultKind = some .dataSegmentation)) = true := by decide

/-- `POP 1[R15]`: the destination comes from the pointer before the pop. -/
theorem test_pop_destination_before_pop :
    nextWith (step (m8sp 0x0001F08A 6)) (fun t => decide
      (getReg 15 t = 7 ∧ memRead 7 t = 70 ∧ memRead 6 t = 70)) = true := by decide

/-- `POP @0` from the last data word faults and stores nothing. -/
theorem test_pop_empty_stack :
    nextWith (step (m8 0x0000000A)) (fun t => decide
      (getReg 15 t = 8 ∧ memRead 0 t = 10 ∧ t.faultKind = some .stackSegmentation)) = true := by decide

/-- The first step from reset finds no text word. -/
theorem test_reset_fetch_faults : faultsAt .textSegmentation 0 State.reset = true := by decide

/-- `withFetchWord` makes the next step run the word: `LOAD R3,#-1`. -/
theorem test_withFetchWord :
    nextWith (step (State.reset.withFetchWord 32 0xFFFFF342)) (fun t => decide
      (getReg 3 t = 0xFFFFFFFF ∧ t.cc = .negative ∧ t.pc = 1)) = true := by decide

/-! ### Witnesses: the encoding -/

theorem witness_DecodeOfEncodeIsTheInstruction :
    (Instr.branch (.invalid 7) (.imm 0)).wellFormed = true ∧ (Instr.call (.invalid 15) (.imm 0)).wellFormed = true ∧
      (Instr.unknown12to15 12).wellFormed = true ∧ (Instr.unknown12to15 15).wellFormed = true ∧
      (Instr.unknown16to31 16).wellFormed = true ∧ (Instr.unknown16to31 31).wellFormed = true ∧
      (Instr.unknown32to63 32).wellFormed = true ∧ (Instr.unknown32to63 63).wellFormed = true := by decide

theorem witness_FlagsSelectTheOperandLayout :
    decode 0xFFFFF342 = .load 3 (.imm 0xFFFFF) ∧ decode 0xFFFCF283 = .store 2 (.mem (.idx 15 0xFFFC)) ∧
      decode 0x00002104 = .add 1 (.mem (.abs 2)) ∧ decode 0x7FFF2185 = .sub 1 (.mem (.idx 2 0x7FFF)) ∧
      decode 0x00005706 = .branch (.invalid 7) (.mem (.abs 5)) ∧ decode 0x00004007 = .call .nc (.mem (.abs 4)) ∧
      decode 0x00007049 = .push (.imm 7) ∧ decode 0x0000100A = .pop (.mem (.abs 1)) := by decide

/-! ### Witnesses: load -/

/-- An image with one text word; the loader supplies the `dataend` static words only. -/
def image8 : Image := ⟨1, 8, 2, [0x0000000B], [10, 20]⟩

/-- An image of which the loader supplies every data word, with no stack region. -/
def fullImage : Image := ⟨1, 2, 2, [0x0000000B], [10, 20]⟩

theorem witness_LoadInstallsTheImageAndResets :
    (image8.dataend ≤ image8.datasize ∧ image8.text.length = image8.textsize.toNat ∧
      image8.data.length = image8.dataend.toNat) ∧
    (fullImage.dataend ≤ fullImage.datasize ∧ fullImage.text.length = fullImage.textsize.toNat ∧
      fullImage.data.length = fullImage.datasize.toNat) := by decide

/-- Each precondition broken alone, by one. -/
theorem witness_LoadRefusesABrokenImage :
    ({ image8 with dataend := 9 } : Image).datasize < ({ image8 with dataend := 9 } : Image).dataend ∧
      { image8 with textsize := 2 }.text.length ≠ { image8 with textsize := 2 }.textsize.toNat ∧
      ({ image8 with data := [10] } : Image).data.length ≠ ({ image8 with data := [10] } : Image).datasize.toNat ∧
      ({ image8 with data := [10] } : Image).data.length ≠ ({ image8 with data := [10] } : Image).dataend.toNat := by
  decide

theorem witness_LoadEstablishesTheInvariant : ∃ t, State.load image8 true State.unloaded = .next t := ⟨_, rfl⟩

theorem witness_ImageWordsRoundTrip : image8.text.length = image8.textsize.toNat := rfl

/-! ### Witnesses: the step -/

/-- M8 as it ends: at `pc`, in run state `run`, with the fault kind `k`. -/
def m8at (w pc : Word) (run : RunState) (k : Option FaultKind) (dbg : Bool := false) : State :=
  { m8 w with pc, run, faultKind := k, dbg }

/-- M8 has the invariant, RUNNING and ended. -/
theorem inv_m8at (w pc : Word) (run : RunState) (k : Option FaultKind) (dbg : Bool)
    (h : run = .faulted ↔ k.isSome = true) : Inv (m8at w pc run k dbg) where
  limits := show (2 : Word) ≤ 8 by decide
  textForm := List.pairwise_singleton ..
  dataForm := show Memory.wf data8 by decide
  textBelow := fun c hc => by
    have : c = (0, w) := by simpa [m8at, m8] using hc
    subst this
    exact show (0 : Nat) < 1 by decide
  dataBelow := show ∀ c ∈ data8, c.1 < 8 by decide
  textFull := fun a ha => by
    have ha : a < (1 : Word) := ha
    have : a = 0 := by bv_omega
    subst this
    rfl
  record := h

theorem witness_StepRunsTheDecodedInstruction :
    (m8 0x0000000B).run = .running ∧ (m8 0x0000000B).pc < (m8 0x0000000B).textsize ∧
      textRead (m8 0x0000000B).pc (m8 0x0000000B) = some 0x0000000B ∧ decode 0x0000000B = .halt := by decide

theorem witness_FetchPastTheTextFaults :
    State.reset.run = .running ∧ State.reset.textsize ≤ State.reset.pc ∧
      (m8at 0 1 .running none).textsize ≤ (m8at 0 1 .running none).pc := by decide

theorem witness_StepIsDefinedOnlyWhileRunning :
    (m8at 0 1 .halted none).run = .halted ∧ (m8at 0 1 .faulted (some .illegalInstruction)).run = .faulted ∧
      State.unloaded.run = .empty := by decide

theorem witness_StepKeepsTheInvariant :
    Inv (m8at 0x00004007 0 .running none) ∧ ∃ t, step (m8at 0x00004007 0 .running none) = .next t :=
  ⟨inv_m8at _ _ _ _ _ (by decide), _, rfl⟩

theorem witness_RunningCoreAlwaysSteps :
    Inv (m8at 0x00004007 0 .running none) ∧ (m8at 0x00004007 0 .running none).run = .running :=
  ⟨inv_m8at _ _ _ _ _ (by decide), rfl⟩

/-- A PUSH is one step of a run. -/
theorem witness_RunNeverChangesTextOrLimits : ∃ t, Reaches (m8 0x00007049) t ∧ memRead 6 t = 7 :=
  ⟨_, .step .refl rfl, by decide⟩

theorem witness_DebuggerDoesNotChangeTheRun :
    SameButDebugger (m8at 0x00007049 0 .running none true) (m8at 0x00007049 0 .running none) := rfl

theorem witness_DetachedDebuggerStaysDetached :
    (m8 0x00007049).dbg = false ∧ ∃ t, Reaches (m8 0x00007049) t ∧ t.pc = 1 :=
  ⟨rfl, _, .step .refl rfl, by decide⟩

theorem witness_HookIsRaisedWhileRunning :
    (∃ t, step (m8at 0x00000001 0 .running none true) = .next t ∧ t.run = .running) ∧
      (∃ t, step (m8at 0x0000000B 0 .running none true) = .next t ∧ t.run ≠ .running) ∧
      ∃ t, step (m8at 0x00000000 0 .running none true) = .next t ∧ t.run ≠ .running :=
  ⟨⟨_, rfl, by decide⟩, ⟨_, rfl, by decide⟩, _, rfl, by decide⟩

/-! ### Witnesses: what each instruction does -/

theorem witness_UnknownOpcodesTakeAFault :
    decode 0x0000000C = .unknown12to15 12 ∧ decode 0x0000001F = .unknown16to31 31 ∧
      decode 0x0000003F = .unknown32to63 63 := by decide

/-- An immediate, the last valid address, the first invalid one. -/
theorem witness_LoadWritesItsRegister :
    operandValue (.imm 0xFFFFF) (m8 0) = some 0xFFFFFFFF ∧ operandValue (.mem (.abs 7)) (m8 0) = some 80 ∧
      operandValue (.mem (.abs 8)) (m8 0) = none := by decide

theorem witness_StoreWritesOneWord :
    effectiveAddress (.abs 7) (m8 0) < (m8 0).datasize ∧ effectiveAddress (.idx 2 0xFFFD) (m8 0) = 0 ∧
      (m8 0).datasize ≤ effectiveAddress (.abs 8) (m8 0) ∧
      (m8 0).datasize ≤ effectiveAddress (.idx 1 0xFFFF) (m8 0) := by decide

/-- The same operands, and an index that wraps below 0. -/
theorem witness_AddWritesTheWrappedSum :
    operandValue (.imm 1) (m8 0 0x7FFFFFFF) = some 1 ∧ operandValue (.mem (.idx 2 4)) (m8 0) = some 80 ∧
      operandValue (.mem (.idx 1 0xFFFF)) (m8 0) = none := by decide

theorem witness_SubWritesTheWrappedDifference :
    operandValue (.imm 0x80000) (m8 0) = some 0xFFF80000 ∧ operandValue (.mem (.idx 2 0xFFFD)) (m8 0) = some 10 ∧
      operandValue (.mem (.idx 2 5)) (m8 0) = none := by decide

theorem witness_BranchSetsPcIfTheConditionHolds :
    conditionTable .ge CC.zero = some true ∧ conditionTable .ge CC.undefined = some false ∧
      conditionTable (.invalid 7) CC.zero = none := by decide

/-- The adjusted pointer at both ends of the stack region, and one word outside at each. -/
theorem witness_CallPushesPcAndJumps :
    (conditionTable .nc (m8sp 0 3).cc = some true ∧ getReg Config.sp (m8sp 0 3) - 1 = (m8sp 0 3).dataend) ∧
      getReg Config.sp (m8sp 0 8) - 1 = 7 ∧ (7 : Word) < (m8sp 0 8).datasize ∧
      ¬ (m8sp 0 2).dataend ≤ getReg Config.sp (m8sp 0 2) - 1 ∧
      ¬ getReg Config.sp (m8sp 0 9) - 1 < (m8sp 0 9).datasize ∧
      conditionTable .eq (m8sp 0 3).cc = some false ∧ conditionTable (.invalid 15) (m8sp 0 3).cc = none := by decide

/-- The adjusted pointer at both ends of the stack region, one word outside at each, and the guard. -/
theorem witness_RetPopsPc :
    getReg Config.sp (m8sp 0 1) + 1 = (m8sp 0 1).dataend ∧ getReg Config.sp (m8sp 0 6) + 1 = 7 ∧
      (7 : Word) < (m8sp 0 6).datasize ∧ ¬ (m8sp 0 0).dataend ≤ getReg Config.sp (m8sp 0 0) + 1 ∧
      ¬ getReg Config.sp (m8sp 0 7) + 1 < (m8sp 0 7).datasize ∧
      getReg Config.sp (m8sp 0 0xFFFFFFFF) + 1 = 0 ∧
      ¬ getReg Config.sp (m8sp 0 0xFFFFFFFF) < (m8sp 0 0xFFFFFFFF).datasize := by decide

theorem witness_PushStoresItsOperand :
    (operandValue (.imm 7) (m8sp 0 3) = some 7 ∧ getReg Config.sp (m8sp 0 3) - 1 = (m8sp 0 3).dataend) ∧
      (operandValue (.mem (.idx 15 0xFFFF)) (m8sp 0 8) = some 80 ∧ getReg Config.sp (m8sp 0 8) - 1 = 7) ∧
      (operandValue (.imm 7) (m8sp 0 2) = some 7 ∧
        ¬ (m8sp 0 2).dataend ≤ getReg Config.sp (m8sp 0 2) - 1) ∧
      operandValue (.mem (.abs 8)) (m8sp 0 2) = none := by decide

theorem witness_PopStoresTheStackTop :
    (effectiveAddress (.abs 7) (m8sp 0 6) < (m8sp 0 6).datasize ∧
        (m8sp 0 6).dataend ≤ getReg Config.sp (m8sp 0 6) + 1 ∧
        getReg Config.sp (m8sp 0 6) + 1 < (m8sp 0 6).datasize ∧
        getReg Config.sp (m8sp 0 6) < (m8sp 0 6).datasize) ∧
      (effectiveAddress (.abs 0) (m8sp 0 7) < (m8sp 0 7).datasize ∧
        ¬ getReg Config.sp (m8sp 0 7) + 1 < (m8sp 0 7).datasize) ∧
      (m8sp 0 7).datasize ≤ effectiveAddress (.abs 8) (m8sp 0 7) := by decide

/-! ### Witnesses: faults -/

theorem witness_ImmediateForbiddenFaultsExactly :
    (m8 0).faultKind = none ∧ forbiddenImmediate (.pop (.imm 0)) = true ∧
      (∃ t, exec (.pop (.imm 0)) (m8 0) = .next t) ∧
      forbiddenImmediate (.push (.imm 0)) = false ∧ ∃ t, exec (.push (.imm 0)) (m8 0) = .next t :=
  ⟨rfl, rfl, ⟨_, rfl⟩, rfl, _, rfl⟩

theorem witness_InvalidConditionFaultsExactly :
    (m8 0).faultKind = none ∧ invalidSelector (.call (.invalid 7) (.mem (.abs 0))) = true ∧
      forbiddenImmediate (.call (.invalid 7) (.mem (.abs 0))) = false ∧
      ∃ t, exec (.call (.invalid 7) (.mem (.abs 0))) (m8 0) = .next t := ⟨rfl, rfl, rfl, _, rfl⟩

theorem witness_DataSegmentationFaultsExactly :
    (m8 0).faultKind = none ∧ dataOutOfBounds (.load 1 (.mem (.abs 8))) (m8 0) = true ∧
      (∃ t, exec (.load 1 (.mem (.abs 8))) (m8 0) = .next t) ∧
      dataOutOfBounds (.load 1 (.mem (.abs 7))) (m8 0) = false ∧
      ∃ t, exec (.load 1 (.mem (.abs 7))) (m8 0) = .next t :=
  ⟨rfl, by decide, ⟨_, rfl⟩, by decide, _, rfl⟩

theorem witness_StackSegmentationFaultsExactly :
    (∃ t, exec (.push (.imm 7)) (m8sp 0 2) = .next t ∧ t.faultKind = some .stackSegmentation) ∧
      (∃ t, exec (.push (.imm 7)) (m8sp 0 3) = .next t ∧ t.faultKind = none) ∧
      (m8sp 0 2).faultKind = none ∧ (m8sp 0 3).faultKind = none :=
  ⟨⟨_, rfl, by decide⟩, ⟨_, rfl, by decide⟩, by decide⟩

theorem witness_StepTakesTheFirstFault :
    (Inv (m8at 0 1 .running none) ∧ (m8at 0 1 .running none).textsize ≤ (m8at 0 1 .running none).pc) ∧
      Inv (m8at 0x00005946 0 .running none) ∧
      ¬ (m8at 0x00005946 0 .running none).textsize ≤ (m8at 0x00005946 0 .running none).pc :=
  ⟨⟨inv_m8at _ _ _ _ _ (by decide), by decide⟩, inv_m8at _ _ _ _ _ (by decide), by decide⟩

theorem witness_FaultKeepsThePreciseState :
    (∃ t, exec .illop (m8 0) = .next t ∧ t.faultKind = some .illegalInstruction) ∧
      (∃ t, exec .ret (m8 0) = .next t ∧ t.faultKind = some .stackSegmentation) ∧ (m8 0).faultKind = none :=
  ⟨⟨_, rfl, by decide⟩, ⟨_, rfl, by decide⟩, rfl⟩

theorem witness_FaultRecordIsLatched :
    (∃ t, step (m8 0x00000000) = .next t ∧ t.run = .faulted) ∧
      (∃ t, step (m8 0x0000000B) = .next t ∧ t.run ≠ .faulted) ∧
      (m8 0x00000000).run = .running ∧ (m8 0x00000000).faultKind = none ∧
      (m8at 0 1 .faulted (some .illegalInstruction)).run = .faulted ∧
      Reaches (m8at 0 1 .faulted (some .illegalInstruction)) (m8at 0 1 .faulted (some .illegalInstruction)) :=
  ⟨⟨_, rfl, by decide⟩, ⟨_, rfl, by decide⟩, rfl, rfl, rfl, .refl⟩

/-! ### Witnesses: the condition code and the program counter -/

theorem witness_CcIsTheSignOfTheResult :
    (m8 0).run ≠ .faulted ∧ (∃ t, exec (.load 1 (.imm 0)) (m8 0) = .next t ∧ t.run ≠ .faulted) ∧
      (∃ t, exec (.add 1 (.mem (.abs 8))) (m8 0) = .next t ∧ t.run = .faulted) ∧
      ∃ t, exec .nop (m8 0) = .next t :=
  ⟨by decide, ⟨_, rfl, by decide⟩, ⟨_, rfl, by decide⟩, _, rfl⟩

theorem witness_CcIsReadOnlyByBranchAndCall :
    ∀ k o, Instr.ret ≠ .branch k o ∧ Instr.ret ≠ .call k o := by simp

theorem witness_ConditionsFollowTheTable :
    conditionTable .ne CC.undefined = some true ∧ conditionTable .le CC.undefined = some false ∧
      conditionTable (.invalid 7) CC.positive = none := by decide

/-- A fault, a CALL and a BRANCH taken, a CALL and a BRANCH not taken, a RET, an instruction of no such kind,
and a failed fetch. -/
theorem witness_PcAfterAStep :
    (m8 0x00000000).run = .running ∧ (m8 0x00000000).pc < (m8 0x00000000).textsize ∧
      textRead (m8 0x00000000).pc (m8 0x00000000) = some 0x00000000 ∧
      (∃ t, step (m8 0x00000000) = .next t ∧ t.run = .faulted) ∧
      (∃ t, step (m8 0x00004007) = .next t ∧ t.run ≠ .faulted ∧ decode 0x00004007 = .call .nc (.mem (.abs 4)) ∧
        conditionTable .nc (m8 0x00004007).cc = some true) ∧
      (∃ t, step (m8 0x00005006) = .next t ∧ t.run ≠ .faulted ∧ decode 0x00005006 = .branch .nc (.mem (.abs 5)) ∧
        conditionTable .nc (m8 0x00005006).cc = some true) ∧
      (∃ t, step (m8 0x00004107) = .next t ∧ t.run ≠ .faulted ∧ decode 0x00004107 = .call .eq (.mem (.abs 4)) ∧
        conditionTable .eq (m8 0x00004107).cc = some false) ∧
      (∃ t, step (m8 0x00005106) = .next t ∧ t.run ≠ .faulted ∧ decode 0x00005106 = .branch .eq (.mem (.abs 5)) ∧
        conditionTable .eq (m8 0x00005106).cc = some false) ∧
      (∃ t, step (m8sp 0x00000008 6) = .next t ∧ t.run ≠ .faulted ∧ decode 0x00000008 = .ret) ∧
      (∃ t, step (m8 0x0000000B) = .next t ∧ t.run ≠ .faulted ∧ decode 0x0000000B = .halt) ∧
      State.reset.textsize ≤ State.reset.pc ∧ ∃ t, step State.reset = .next t :=
  ⟨rfl, by decide, rfl, ⟨_, rfl, by decide⟩, ⟨_, rfl, by decide⟩, ⟨_, rfl, by decide⟩, ⟨_, rfl, by decide⟩,
    ⟨_, rfl, by decide⟩, ⟨_, rfl, by decide⟩, ⟨_, rfl, by decide⟩, by decide, _, rfl⟩

/-! ### Witnesses: frames -/

theorem witness_RegisterResultFrame :
    (∃ t, exec (.load 15 (.imm 0)) (m8 0) = .next t ∧ t.run = .running) ∧
      (∃ t, exec (.add 1 (.mem (.abs 7))) (m8 0) = .next t ∧ t.run = .running) ∧
      (m8 0).run ≠ .faulted ∧ ∃ t, exec (.sub 1 (.mem (.abs 8))) (m8 0) = .next t ∧ t.run = .faulted :=
  ⟨⟨_, rfl, by decide⟩, ⟨_, rfl, by decide⟩, by decide, _, rfl, by decide⟩

theorem witness_StoreFrame :
    (∃ t, exec (.store 1 (.mem (.abs 7))) (m8 0) = .next t ∧ t.run = .running) ∧
      (∃ t, exec (.store 1 (.imm 7)) (m8 0) = .next t) ∧
      (m8 0).datasize ≤ effectiveAddress (.abs 8) (m8 0) ∧ ∃ t, exec (.store 1 (.mem (.abs 8))) (m8 0) = .next t :=
  ⟨⟨_, rfl, by decide⟩, ⟨_, rfl⟩, by decide, _, rfl⟩

theorem witness_PushAndCallFrame :
    (∃ t, exec (.push (.imm 7)) (m8 0) = .next t ∧ t.run = .running) ∧
      (∃ t, exec (.call .nc (.mem (.abs 4))) (m8 0) = .next t ∧ t.run = .running) ∧
      (conditionTable .eq (m8 0).cc ≠ some true ∧ ∃ t, exec (.call .eq (.mem (.abs 4))) (m8 0) = .next t) ∧
      conditionTable .nc (m8 0).cc = some true ∧ ∃ t, exec (.call .nc (.imm 4)) (m8 0) = .next t :=
  ⟨⟨_, rfl, by decide⟩, ⟨_, rfl, by decide⟩, ⟨by decide, _, rfl⟩, by decide, _, rfl⟩

theorem witness_PopFrame :
    (∃ t, exec (.pop (.mem (.abs 7))) (m8sp 0 6) = .next t ∧ t.run = .running) ∧
      ∃ t, exec (.pop (.imm 7)) (m8sp 0 6) = .next t := ⟨⟨_, rfl, by decide⟩, _, rfl⟩

theorem witness_NothingStoredFrame :
    (∃ t, exec .ret (m8sp 0 6) = .next t ∧ t.run = .running) ∧ (∃ t, exec .halt (m8 0) = .next t) ∧
      (∃ t, exec (.branch .nc (.mem (.abs 5))) (m8 0) = .next t) ∧ ∃ t, exec .illop (m8 0) = .next t :=
  ⟨⟨_, rfl, by decide⟩, ⟨_, rfl⟩, ⟨_, rfl⟩, _, rfl⟩

/-! ### Witnesses: the stack -/

/-- PUSH below `datasize` and at `datasize`, each followed by a POP to an existing word; a stack instruction
that completes and one that faults. -/
theorem witness_StackInstructionsPairUp :
    ((m8 0).run = .running ∧ operandValue (.imm 7) (m8 0) = some 7 ∧ getReg Config.sp (m8 0) < (m8 0).datasize ∧
      ∃ t, exec (.push (.imm 7)) (m8 0) = .next t ∧ t.run = .running ∧ effectiveAddress (.abs 7) t < t.datasize ∧
        t.datasize = (m8 0).datasize) ∧
    (operandValue (.imm 7) (m8sp 0 8) = some 7 ∧ getReg Config.sp (m8sp 0 8) = (m8sp 0 8).datasize ∧
      (m8sp 0 8).dataend < (m8sp 0 8).datasize ∧
      ∃ t, exec (.push (.imm 7)) (m8sp 0 8) = .next t ∧ t.run = .running ∧
        effectiveAddress (.abs 0) t < t.datasize) ∧
    ((adjustedPointer .ret (m8sp 0 6)).isSome = true ∧
      (∃ t, exec .ret (m8sp 0 6) = .next t ∧ t.run ≠ .faulted) ∧
      ∃ t, exec .ret (m8sp 0 7) = .next t ∧ t.run = .faulted) :=
  ⟨⟨rfl, by decide, by decide, _, rfl, by decide, by decide, rfl⟩,
    ⟨by decide, by decide, by decide, _, rfl, by decide, by decide⟩,
    by decide, ⟨_, rfl, by decide⟩, _, rfl, by decide⟩

/-- `u` is the state the CALL left. -/
theorem witness_CallThenRetResumes :
    (m8 0).run = .running ∧ conditionTable .nc (m8 0).cc = some true ∧
      getReg Config.sp (m8 0) < (m8 0).datasize ∧
      ∃ t, exec (.call .nc (.mem (.abs 4))) (m8 0) = .next t ∧ t.run = .running ∧
        t.dataend = (m8 0).dataend ∧ t.datasize = (m8 0).datasize :=
  ⟨rfl, by decide, by decide, _, rfl, by decide, rfl, rfl⟩

/-- Five words fit between `dataend` 2 and the pointer 7; the second clause at its bound. -/
theorem witness_StackHoldsItsCapacity :
    ((m8 0).run = .running ∧ getReg Config.sp (m8 0) = (m8 0).datasize - 1 ∧
      ∃ t, execAll ([Operand.imm 1, Operand.mem (.abs 7)].map Instr.push) (m8 0) = .next t ∧ t.run = .running) ∧
    ([1, 2, 3, 4, 5] : List (BitVec 20)).length + 1 + (m8 0).dataend.toNat ≤ (m8 0).datasize.toNat :=
  ⟨⟨rfl, by decide, _, rfl, by decide⟩, by decide⟩

/-- The adjusted pointer is `dataend`, the highest static word is `dataend - 1`. -/
theorem witness_PushesStayOutOfTheStaticRegion :
    (∃ t, exec (.push (.imm 7)) (m8sp 0 3) = .next t ∧ getReg Config.sp t = 2) ∧
      (∃ t, exec (.call .nc (.mem (.abs 4))) (m8sp 0 3) = .next t) ∧ (∃ t, exec .ret (m8sp 0 1) = .next t) ∧
      (1 : Word) < (m8sp 0 3).dataend :=
  ⟨⟨_, rfl, by decide⟩, ⟨_, rfl⟩, ⟨_, rfl⟩, by decide⟩

theorem witness_LimitAndStackPointerInvariants :
    (∃ t u, State.load image8 false State.unloaded = .next t ∧ Reaches t u ∧ u.run = .halted) ∧
      (m8 0).run ≠ .faulted ∧
      (∃ t, exec (.push (.imm 7)) (m8sp 0 3) = .next t ∧ t.run ≠ .faulted) ∧
      (∃ t, exec (.pop (.mem (.abs 0))) (m8sp 0 6) = .next t ∧ t.run ≠ .faulted) ∧
      (∃ t, exec .ret (m8sp 0 1) = .next t ∧ t.run ≠ .faulted) ∧
      (∃ t, exec (.call .nc (.mem (.abs 4))) (m8sp 0 3) = .next t ∧ t.run ≠ .faulted) ∧
      conditionTable .nc (m8sp 0 3).cc = some true :=
  ⟨⟨_, _, rfl, .step .refl rfl, by decide⟩, by decide, ⟨_, rfl, by decide⟩, ⟨_, rfl, by decide⟩,
    ⟨_, rfl, by decide⟩, ⟨_, rfl, by decide⟩, by decide⟩

theorem witness_ExitReportTellsHaltFromFault :
    Inv (m8at 0x0000000B 1 .halted none) ∧ Inv (m8at 0 1 .faulted (some .illegalInstruction)) :=
  ⟨inv_m8at _ _ _ _ _ (by decide), inv_m8at _ _ _ _ _ (by decide)⟩

/-! ### Witnesses: fetch, continuation and the illegal instruction -/

/-- After a load, and after the one step of the run, with the address at both sides of `textsize`; and a fetch at
`textsize` under two text memories. -/
theorem witness_TextWordsAreTheImages :
    (∃ t u, State.load image8 false State.unloaded = .next t ∧ Reaches t u ∧ u.run = .halted ∧
      (0 : Word) < u.textsize ∧ u.textsize ≤ 1) ∧
    ∃ t v v', State.load ⟨0, 0, 0, [], []⟩ false State.unloaded = .next t ∧ Reaches t t ∧ t.run = .running ∧
      t.textsize ≤ t.pc ∧ step t = .next v ∧ step { t with text := [(0, 0x0000000B)] } = .next v' :=
  ⟨⟨_, _, rfl, .step .refl rfl, by decide⟩, _, _, _, rfl, .refl, rfl, by decide, rfl, rfl⟩

/-- A HALT, and a `BRANCH NC,@0` after which the next fetch finds a word. -/
theorem witness_EveryInstructionButHaltContinues :
    ((m8 0x0000000B).run = .running ∧ (m8 0x0000000B).pc < (m8 0x0000000B).textsize ∧
      textRead (m8 0x0000000B).pc (m8 0x0000000B) = some 0x0000000B ∧ decode 0x0000000B = .halt ∧
      ∃ t, step (m8 0x0000000B) = .next t ∧ t.run ≠ .faulted) ∧
    decode 0x00000006 ≠ .halt ∧ textRead (m8 0x00000006).pc (m8 0x00000006) = some 0x00000006 ∧
      ∃ t, step (m8 0x00000006) = .next t ∧ t.run ≠ .faulted ∧ t.pc < t.textsize ∧
        textRead t.pc t = some 0x00000006 :=
  ⟨⟨rfl, by decide, rfl, by decide, _, rfl, by decide⟩, by decide, rfl, _, rfl, by decide, by decide, by decide⟩

theorem witness_IllegalInstructionFaultsExactly :
    (m8 0).faultKind = none ∧ (∃ t, exec .illop (m8 0) = .next t) ∧
      ∃ t, exec (.unknown12to15 12) (m8 0) = .next t := ⟨rfl, ⟨_, rfl⟩, _, rfl⟩

end Sys2Proof.Tests
end

/-! PROOFS. What an instruction does, said once: it completes or it faults. -/

namespace Sys2Proof.Safety

open Sys2Proof.Machine

/-! ### The model's operations in the terms of the statements -/

/-- The stack region (44_stack.md R130) holds the address `p`. -/
def InStack (p : Word) (s : State) : Prop := s.dataend ≤ p ∧ p < s.datasize

/-- RET and POP find a word to take and leave the pointer in the stack region (44_stack.md R132, D8). -/
def CanPop (s : State) : Prop := InStack (getReg Config.sp s + 1) s ∧ getReg Config.sp s < s.datasize

theorem sourceOperand_of_value {op : Operand} {s : State} {v : Word} (h : operandValue op s = some v) :
    sourceOperand op s = .ok v := by
  obtain ⟨n, rfl, hs⟩ | ⟨m, rfl, hm, hs⟩ | ⟨m, rfl, hm, hs⟩ := sourceOperand_cases op s
  · rw [hs, ← Option.some.inj h]
    rfl
  · rw [operandValue, if_pos hm] at h
    rw [hs, Option.some.inj h]
  · simp [operandValue, BitVec.not_lt.2 hm] at h

theorem sourceOperand_of_no_value {op : Operand} {s : State} (h : operandValue op s = none) :
    sourceOperand op s = .error (raise .dataSegmentation s) := by
  obtain ⟨n, rfl, -⟩ | ⟨m, rfl, hm, -⟩ | ⟨m, rfl, -, hs⟩ := sourceOperand_cases op s
  · simp [operandValue] at h
  · simp [operandValue, hm] at h
  · exact hs

theorem destAddress_in {m : Address} {s : State} (h : effectiveAddress m s < s.datasize) :
    destAddress (.mem m) s = .ok (effectiveAddress m s) := by
  simp [destAddress, checkDataBounds_in h]

theorem destAddress_out {m : Address} {s : State} (h : s.datasize ≤ effectiveAddress m s) :
    destAddress (.mem m) s = .error (raise .dataSegmentation s) := by
  simp [destAddress, checkDataBounds_out h]

@[simp] theorem destAddress_imm (n : BitVec 20) (s : State) :
    destAddress (.imm n) s = .error (raise .immediateForbidden s) := rfl

/-- The evaluation of a condition is the truth table of 43_control_transfer.md R115. -/
theorem condHolds_eq_table (c : Cond) (s : State) :
    condHolds c s = (conditionTable c s.cc).elim (.error (raise .invalidCondition s)) .ok := by
  cases c with
  | nc | invalid _ => rfl
  | eq | ne | gt | ge | lt | le => cases h : s.cc <;> simp [condHolds, conditionTable, h]

theorem stackPush_in (v : Word) {s : State} (h : InStack (getReg Config.sp s - 1) s) :
    stackPush v s = .ok (memWrite (getReg Config.sp s - 1) v (setReg Config.sp (getReg Config.sp s - 1) s)) := by
  obtain ⟨-, -, hs⟩ | ⟨hn, -⟩ := stackPush_cases v _ s rfl
  · exact hs
  · exact absurd h hn

theorem stackPush_out (v : Word) {s : State} (h : ¬ InStack (getReg Config.sp s - 1) s) :
    stackPush v s = .error (raise .stackSegmentation (setReg Config.sp (getReg Config.sp s - 1) s)) := by
  obtain ⟨hlo, hhi, -⟩ | ⟨-, hs⟩ := stackPush_cases v _ s rfl
  · exact absurd ⟨hlo, hhi⟩ h
  · exact hs

theorem stackPop_in {s : State} (h : CanPop s) :
    stackPop s = .ok (memRead (getReg Config.sp s) s, setReg Config.sp (getReg Config.sp s + 1) s) := by
  obtain ⟨⟨hlo, hhi⟩, hp⟩ := h
  obtain ⟨-, -, -, hs⟩ | ⟨hn, -⟩ := stackPop_cases _ s rfl
  · exact hs
  · exact absurd ⟨hlo, hhi, hp⟩ hn

theorem stackPop_out {s : State} (h : ¬ CanPop s) :
    stackPop s = .error (raise .stackSegmentation (setReg Config.sp (getReg Config.sp s + 1) s)) := by
  obtain ⟨hlo, hhi, hp, -⟩ | ⟨-, hs⟩ := stackPop_cases _ s rfl
  · exact absurd ⟨⟨hlo, hhi⟩, hp⟩ h
  · exact hs

/-! ### What an instruction does -/

/-- Instruction `i`, executed in `s`, completes and leaves `t`. -/
inductive Completes : Instr → State → State → Prop where
  | nop {s} : Completes .nop s s
  | halt {s} : Completes .halt s (stopRun s)
  | load {rd src s v} : operandValue src s = some v →
      Completes (.load rd src) s (updateCc v (setReg rd v s))
  | add {rd src s v} : operandValue src s = some v →
      Completes (.add rd src) s (updateCc (getReg rd s + v) (setReg rd (getReg rd s + v) s))
  | sub {rd src s v} : operandValue src s = some v →
      Completes (.sub rd src) s (updateCc (getReg rd s - v) (setReg rd (getReg rd s - v) s))
  | store {rs m s} : effectiveAddress m s < s.datasize →
      Completes (.store rs (.mem m)) s (memWrite (effectiveAddress m s) (getReg rs s) s)
  | branchTaken {c m s} : conditionTable c s.cc = some true →
      Completes (.branch c (.mem m)) s (setPc (effectiveAddress m s) s)
  | branchPassed {c m s} : conditionTable c s.cc = some false → Completes (.branch c (.mem m)) s s
  | callTaken {c m s} : conditionTable c s.cc = some true → InStack (getReg Config.sp s - 1) s →
      Completes (.call c (.mem m)) s (setPc (effectiveAddress m s)
        (memWrite (getReg Config.sp s - 1) s.pc (setReg Config.sp (getReg Config.sp s - 1) s)))
  | callPassed {c m s} : conditionTable c s.cc = some false → Completes (.call c (.mem m)) s s
  | ret {s} : CanPop s →
      Completes .ret s (setPc (memRead (getReg Config.sp s) s) (setReg Config.sp (getReg Config.sp s + 1) s))
  | push {src s v} : operandValue src s = some v → InStack (getReg Config.sp s - 1) s →
      Completes (.push src) s
        (memWrite (getReg Config.sp s - 1) v (setReg Config.sp (getReg Config.sp s - 1) s))
  | pop {m s} : effectiveAddress m s < s.datasize → CanPop s →
      Completes (.pop (.mem m)) s (memWrite (effectiveAddress m s) (memRead (getReg Config.sp s) s)
        (setReg Config.sp (getReg Config.sp s + 1) s))

/-- Instruction `i`, executed in `s`, takes a fault of kind `k` in the state `u`, which is `s` or, for a
stack-segmentation fault, `s` with the adjusted stack pointer (60_exceptions.md R162, D16). -/
inductive Faults : Instr → State → FaultKind → State → Prop where
  | illop {s} : Faults .illop s .illegalInstruction s
  | unknown12to15 {op s} : Faults (.unknown12to15 op) s .unknownInstruction s
  | unknown16to31 {op s} : Faults (.unknown16to31 op) s .unknownInstruction s
  | unknown32to63 {op s} : Faults (.unknown32to63 op) s .unknownInstruction s
  | loadBounds {rd src s} : operandValue src s = none → Faults (.load rd src) s .dataSegmentation s
  | addBounds {rd src s} : operandValue src s = none → Faults (.add rd src) s .dataSegmentation s
  | subBounds {rd src s} : operandValue src s = none → Faults (.sub rd src) s .dataSegmentation s
  | storeImmediate {rs n s} : Faults (.store rs (.imm n)) s .immediateForbidden s
  | storeBounds {rs m s} : s.datasize ≤ effectiveAddress m s → Faults (.store rs (.mem m)) s .dataSegmentation s
  | branchImmediate {c n s} : Faults (.branch c (.imm n)) s .immediateForbidden s
  | branchCondition {c m s} : conditionTable c s.cc = none → Faults (.branch c (.mem m)) s .invalidCondition s
  | callImmediate {c n s} : Faults (.call c (.imm n)) s .immediateForbidden s
  | callCondition {c m s} : conditionTable c s.cc = none → Faults (.call c (.mem m)) s .invalidCondition s
  | callStack {c m s} : conditionTable c s.cc = some true → ¬ InStack (getReg Config.sp s - 1) s →
      Faults (.call c (.mem m)) s .stackSegmentation (setReg Config.sp (getReg Config.sp s - 1) s)
  | retStack {s} : ¬ CanPop s → Faults .ret s .stackSegmentation (setReg Config.sp (getReg Config.sp s + 1) s)
  | pushBounds {src s} : operandValue src s = none → Faults (.push src) s .dataSegmentation s
  | pushStack {src s v} : operandValue src s = some v → ¬ InStack (getReg Config.sp s - 1) s →
      Faults (.push src) s .stackSegmentation (setReg Config.sp (getReg Config.sp s - 1) s)
  | popImmediate {n s} : Faults (.pop (.imm n)) s .immediateForbidden s
  | popBounds {m s} : s.datasize ≤ effectiveAddress m s → Faults (.pop (.mem m)) s .dataSegmentation s
  | popStack {m s} : effectiveAddress m s < s.datasize → ¬ CanPop s →
      Faults (.pop (.mem m)) s .stackSegmentation (setReg Config.sp (getReg Config.sp s + 1) s)

theorem exec_of_completes {i : Instr} {s t : State} (h : Completes i s t) : exec i s = .next t := by
  cases h with
  | nop | halt => rfl
  | load hv => simp [exec, execLoad, sourceOperand_of_value hv]
  | add hv => simp [exec, execAdd, sourceOperand_of_value hv]
  | sub hv => simp [exec, execSub, sourceOperand_of_value hv]
  | store he => simp [exec, execStore, destAddress_in he]
  | branchTaken hc | branchPassed hc => simp [exec, execBranch, condHolds_eq_table, hc]
  | callTaken hc hp => simp [exec, execCall, condHolds_eq_table, hc, stackPush_in _ hp]
  | callPassed hc => simp [exec, execCall, condHolds_eq_table, hc]
  | ret hp => simp [exec, execRet, stackPop_in hp]
  | push hv hp => simp [exec, execPush, sourceOperand_of_value hv, stackPush_in _ hp]
  | pop he hp => simp [exec, execPop, destAddress_in he, stackPop_in hp]

theorem exec_of_faults {i : Instr} {s u : State} {k : FaultKind} (h : Faults i s k u) :
    exec i s = .next (raise k u) := by
  cases h with
  | illop | unknown12to15 | unknown16to31 | unknown32to63 => rfl
  | storeImmediate | branchImmediate | callImmediate | popImmediate => rfl
  | loadBounds hv => simp [exec, execLoad, sourceOperand_of_no_value hv]
  | addBounds hv => simp [exec, execAdd, sourceOperand_of_no_value hv]
  | subBounds hv => simp [exec, execSub, sourceOperand_of_no_value hv]
  | storeBounds he => simp [exec, execStore, destAddress_out he]
  | branchCondition hc => simp [exec, execBranch, condHolds_eq_table, hc]
  | callCondition hc => simp [exec, execCall, condHolds_eq_table, hc]
  | callStack hc hp => simp [exec, execCall, condHolds_eq_table, hc, stackPush_out _ hp]
  | retStack hp => simp [exec, execRet, stackPop_out hp]
  | pushBounds hv => simp [exec, execPush, sourceOperand_of_no_value hv]
  | pushStack hv hp => simp [exec, execPush, sourceOperand_of_value hv, stackPush_out _ hp]
  | popBounds he => simp [exec, execPop, destAddress_out he]
  | popStack he hp => simp [exec, execPop, destAddress_in he, stackPop_out hp]

theorem completes_or_faults (i : Instr) (s : State) : (∃ t, Completes i s t) ∨ ∃ k u, Faults i s k u := by
  cases i with
  | nop => exact .inl ⟨_, .nop⟩
  | halt => exact .inl ⟨_, .halt⟩
  | illop => exact .inr ⟨_, _, .illop⟩
  | unknown12to15 op => exact .inr ⟨_, _, .unknown12to15⟩
  | unknown16to31 op => exact .inr ⟨_, _, .unknown16to31⟩
  | unknown32to63 op => exact .inr ⟨_, _, .unknown32to63⟩
  | load rd src =>
    cases hv : operandValue src s with
    | none => exact .inr ⟨_, _, .loadBounds hv⟩
    | some v => exact .inl ⟨_, .load hv⟩
  | add rd src =>
    cases hv : operandValue src s with
    | none => exact .inr ⟨_, _, .addBounds hv⟩
    | some v => exact .inl ⟨_, .add hv⟩
  | sub rd src =>
    cases hv : operandValue src s with
    | none => exact .inr ⟨_, _, .subBounds hv⟩
    | some v => exact .inl ⟨_, .sub hv⟩
  | store rs dst =>
    cases dst with
    | imm n => exact .inr ⟨_, _, .storeImmediate⟩
    | mem m =>
      rcases word_lt_or_ge (effectiveAddress m s) s.datasize with he | he
      · exact .inl ⟨_, .store he⟩
      · exact .inr ⟨_, _, .storeBounds he⟩
  | branch c target =>
    cases target with
    | imm n => exact .inr ⟨_, _, .branchImmediate⟩
    | mem m =>
      match hc : conditionTable c s.cc with
      | none => exact .inr ⟨_, _, .branchCondition hc⟩
      | some true => exact .inl ⟨_, .branchTaken hc⟩
      | some false => exact .inl ⟨_, .branchPassed hc⟩
  | call c target =>
    cases target with
    | imm n => exact .inr ⟨_, _, .callImmediate⟩
    | mem m =>
      match hc : conditionTable c s.cc with
      | none => exact .inr ⟨_, _, .callCondition hc⟩
      | some false => exact .inl ⟨_, .callPassed hc⟩
      | some true =>
        by_cases hp : InStack (getReg Config.sp s - 1) s
        · exact .inl ⟨_, .callTaken hc hp⟩
        · exact .inr ⟨_, _, .callStack hc hp⟩
  | ret =>
    by_cases hp : CanPop s
    · exact .inl ⟨_, .ret hp⟩
    · exact .inr ⟨_, _, .retStack hp⟩
  | push src =>
    cases hv : operandValue src s with
    | none => exact .inr ⟨_, _, .pushBounds hv⟩
    | some v =>
      by_cases hp : InStack (getReg Config.sp s - 1) s
      · exact .inl ⟨_, .push hv hp⟩
      · exact .inr ⟨_, _, .pushStack hv hp⟩
  | pop dst =>
    cases dst with
    | imm n => exact .inr ⟨_, _, .popImmediate⟩
    | mem m =>
      rcases word_lt_or_ge (effectiveAddress m s) s.datasize with he | he
      · by_cases hp : CanPop s
        · exact .inl ⟨_, .pop he hp⟩
        · exact .inr ⟨_, _, .popStack he hp⟩
      · exact .inr ⟨_, _, .popBounds he⟩

/-- All that `exec` can answer: later proofs take an execution apart here and do not unfold `exec`. -/
theorem exec_next_iff {i : Instr} {s t : State} :
    exec i s = .next t ↔ Completes i s t ∨ ∃ k u, Faults i s k u ∧ t = raise k u := by
  constructor
  · intro h
    obtain ⟨t', hc⟩ | ⟨k, u, hf⟩ := completes_or_faults i s
    · obtain rfl : t' = t := by simpa [exec_of_completes hc] using h
      exact .inl hc
    · exact .inr ⟨k, u, hf, by simpa [exec_of_faults hf, eq_comm] using h⟩
  · rintro (hc | ⟨k, u, hf, rfl⟩)
    · exact exec_of_completes hc
    · exact exec_of_faults hf

/-- A fault leaves everything but the record as it was, the stack pointer apart. -/
theorem Faults.same_or_moved_pointer {i : Instr} {s u : State} {k : FaultKind} (h : Faults i s k u) :
    u = s ∨ ∃ p, u = setReg Config.sp p s := by
  cases h with
  | callStack | retStack | pushStack | popStack => exact .inr ⟨_, rfl⟩
  | _ => exact .inl rfl

/-- An instruction that completes leaves the run state and the fault record as they are, or is HALT. -/
theorem Completes.run_or_halt {i : Instr} {s t : State} (h : Completes i s t) :
    t.run = s.run ∨ i = .halt ∧ t = stopRun s := by
  cases h with
  | halt => exact .inr ⟨rfl, rfl⟩
  | _ => exact .inl rfl

theorem Completes.not_faulted {i : Instr} {s t : State} (h : Completes i s t) (hs : s.run ≠ .faulted) :
    t.run ≠ .faulted := by
  obtain hr | ⟨-, rfl⟩ := h.run_or_halt
  · rwa [hr]
  · simp

theorem completes_of_not_faulted {i : Instr} {s t : State} (h : exec i s = .next t) (ht : t.run ≠ .faulted) :
    Completes i s t := by
  obtain hc | ⟨k, u, -, rfl⟩ := exec_next_iff.1 h
  · exact hc
  · exact absurd (raise_run u k) ht

theorem faults_of_faulted {i : Instr} {s t : State} (h : exec i s = .next t) (hs : s.run ≠ .faulted)
    (ht : t.run = .faulted) : ∃ k u, Faults i s k u ∧ t = raise k u :=
  (exec_next_iff.1 h).resolve_left fun hc => hc.not_faulted hs ht

theorem SameSurroundings.refl (s : State) : SameSurroundings s s := ⟨rfl, rfl, rfl, rfl, rfl, rfl, rfl⟩

/-- No instruction changes the limits, the text, the debug flag or the model's counters
(10_state.md R19, 20_memory.md R44). -/
theorem exec_sameSurroundings {i : Instr} {s t : State} (h : exec i s = .next t) : SameSurroundings s t := by
  obtain hc | ⟨k, u, hf, rfl⟩ := exec_next_iff.1 h
  · cases hc <;> exact SameSurroundings.refl s
  · obtain rfl | ⟨p, rfl⟩ := hf.same_or_moved_pointer
    · exact SameSurroundings.refl u
    · exact SameSurroundings.refl s

/-! ### What a step does -/

/-- All that a step with a next state can do. -/
theorem step_next_cases {s t : State} (h : step s = .next t) :
    s.run = .running ∧
      ((s.textsize ≤ s.pc ∧ t = raiseAt .textSegmentation s.pc s) ∨
        ∃ w u, s.pc < s.textsize ∧ textRead s.pc s = some w ∧
          exec (decode w) (setPc (s.pc + 1) s) = .next u ∧ t = debugHook u) := by
  obtain ⟨-, hs⟩ | ⟨-, hs⟩ | ⟨-, hs⟩ | ⟨hr, hpc, hs⟩ | ⟨-, -, -, hs⟩ | ⟨w, hr, hpc, hw, hs⟩ := step_cases s
  case inr.inr.inr.inl => exact ⟨hr, .inl ⟨hpc, by simpa [hs, eq_comm] using h⟩⟩
  case inr.inr.inr.inr.inr =>
    obtain ⟨u, hu⟩ := exec_answers_next (decode w) (setPc (s.pc + 1) s)
    exact ⟨hr, .inr ⟨w, u, hpc, hw, hu, by simpa [hs, runWord_next hu, eq_comm] using h⟩⟩
  all_goals simp [hs] at h

/-- What holds at the start of a run and is kept by every step holds of every state the run reaches. -/
theorem reaches_keeps {P : State → Prop} {s t : State} (hstep : ∀ t u, P t → step t = .next u → P u)
    (hs : P s) (h : Reaches s t) : P t := by
  induction h with
  | refl => exact hs
  | step _ hu ih => exact hstep _ _ ih hu

section DebugHook

variable (s : State)

/-- The debug hook changes the debug flag and its own counter only (70_reset_and_hazards.md R185, D17). -/
theorem debugHook_eq : ∃ d n, debugHook s = { s with dbg := d, hooks := n } := by
  obtain ⟨-, -, h⟩ | ⟨-, h⟩ := debugHook_cases s
  · exact ⟨_, _, h⟩
  · exact ⟨s.dbg, s.hooks, h⟩

theorem debugHook_detached (h : s.dbg = false) : debugHook s = s := by
  obtain ⟨-, hd, -⟩ | ⟨-, hs⟩ := debugHook_cases s
  · simp [h] at hd
  · exact hs

@[simp] theorem debugHook_pc : (debugHook s).pc = s.pc := by
  obtain ⟨d, n, h⟩ := debugHook_eq s; rw [h]
@[simp] theorem debugHook_run : (debugHook s).run = s.run := by
  obtain ⟨d, n, h⟩ := debugHook_eq s; rw [h]
@[simp] theorem debugHook_datasize : (debugHook s).datasize = s.datasize := by
  obtain ⟨d, n, h⟩ := debugHook_eq s; rw [h]
@[simp] theorem debugHook_dataend : (debugHook s).dataend = s.dataend := by
  obtain ⟨d, n, h⟩ := debugHook_eq s; rw [h]
@[simp] theorem getReg_debugHook (r : Reg) : getReg r (debugHook s) = getReg r s := by
  obtain ⟨d, n, h⟩ := debugHook_eq s; rw [h]; rfl
@[simp] theorem memRead_debugHook (a : Word) : memRead a (debugHook s) = memRead a s := by
  obtain ⟨d, n, h⟩ := debugHook_eq s; rw [h]; rfl

end DebugHook

end Sys2Proof.Safety

/-! PROOFS. The state: reset, the invariant, the debugger, cc, pc and the limits (10_state.md). -/

namespace Sys2Proof.Safety

open Sys2Proof.Machine

/-! ### Reset and the run states -/

/-- Settles O7: the empty image is valid, and each field of its load is computed. -/
theorem resetIsTheLoadOfTheEmptyImage : Obligations.ResetIsTheLoadOfTheEmptyImage := by
  intro s
  have hvalid : Image.valid ⟨0, 0, 0, [], []⟩ = true := by decide
  rw [State.load, if_pos hvalid]
  rfl

/-- Settles O11: no text or data word exists at reset, and no fault is recorded. -/
theorem resetSatisfiesTheInvariant : Obligations.ResetSatisfiesTheInvariant where
  limits := BitVec.le_refl _
  textForm := reset_memory_wf.1
  dataForm := reset_memory_wf.2
  textBelow := by simp [State.reset]
  dataBelow := by simp [State.reset]
  textFull := fun _ ha => absurd ha BitVec.not_lt_zero
  record := by decide

/-- Settles O15, each run state being a case of `step`. -/
theorem stepIsDefinedOnlyWhileRunning : Obligations.StepIsDefinedOnlyWhileRunning := by
  intro s
  refine ⟨fun h => ?_, fun h => ?_, fun h => ?_⟩ <;> rw [step, h]

/-! ### The invariant -/

section Invariant

variable {s : State}

theorem Inv.setReg (r : Reg) (v : Word) (h : Inv s) : Inv (setReg r v s) := { h with }

theorem Inv.setPc (p : Word) (h : Inv s) : Inv (setPc p s) := { h with }

theorem Inv.updateCc (v : Word) (h : Inv s) : Inv (updateCc v s) := { h with }

theorem Inv.memWrite {e : Word} (v : Word) (h : Inv s) (he : e < s.datasize) : Inv (memWrite e v s) :=
  { h with
    dataForm := memWrite_data_wf e v h.dataForm
    dataBelow := memWrite_data_below v h.dataBelow he }

theorem Inv.raiseAt (k : FaultKind) (a : Word) (h : Inv s) : Inv (raiseAt k a s) :=
  { h with record := by simp }

theorem Inv.raise (k : FaultKind) (h : Inv s) : Inv (raise k s) := h.raiseAt k _

/-- A run that ends without a fault must have had none recorded. -/
theorem Inv.stopRun (h : Inv s) (hr : s.run ≠ .faulted) : Inv (stopRun s) :=
  { h with record := by simpa [h.record] using hr }

theorem Inv.debugHook (h : Inv s) : Inv (debugHook s) := by
  obtain ⟨d, n, hd⟩ := debugHook_eq s
  rw [hd]
  exact { h with }

end Invariant

theorem Completes.keeps_inv {i : Instr} {s t : State} (h : Completes i s t) (hs : Inv s)
    (hr : s.run ≠ .faulted) : Inv t := by
  cases h with
  | nop | branchPassed | callPassed => exact hs
  | halt => exact hs.stopRun hr
  | load | add | sub => exact (hs.setReg _ _).updateCc _
  | store he => exact hs.memWrite _ he
  | branchTaken => exact hs.setPc _
  | callTaken hc hp => exact ((hs.setReg _ _).memWrite _ hp.2).setPc _
  | ret => exact (hs.setReg _ _).setPc _
  | push hv hp => exact (hs.setReg _ _).memWrite _ hp.2
  | pop he hp => exact (hs.setReg _ _).memWrite _ he

theorem Faults.keeps_inv {i : Instr} {s u : State} {k : FaultKind} (h : Faults i s k u) (hs : Inv s) :
    Inv (raise k u) := by
  obtain rfl | ⟨p, rfl⟩ := h.same_or_moved_pointer
  · exact hs.raise k
  · exact (hs.setReg _ p).raise k

theorem exec_keeps_inv {i : Instr} {s t : State} (hs : Inv s) (hr : s.run ≠ .faulted)
    (h : exec i s = .next t) : Inv t := by
  obtain hc | ⟨k, u, hf, rfl⟩ := exec_next_iff.1 h
  · exact hc.keeps_inv hs hr
  · exact hf.keeps_inv hs

/-- Settles O16: each update of the state that an instruction is made of keeps the invariant, a store because
its address was checked against `datasize`. -/
theorem stepKeepsTheInvariant : Obligations.StepKeepsTheInvariant := by
  intro s t hs h
  obtain ⟨hr, ⟨-, rfl⟩ | ⟨w, u, -, -, hu, rfl⟩⟩ := step_next_cases h
  · exact hs.raiseAt _ _
  · exact (exec_keeps_inv (hs.setPc _) (by simp [hr]) hu).debugHook

/-! ### The debugger -/

/-- A step of a core without a debugger raises no hook. -/
theorem step_detached {s t : State} (hd : s.dbg = false) (h : step s = .next t) :
    t.dbg = false ∧ t.hooks = s.hooks := by
  obtain ⟨-, ⟨-, rfl⟩ | ⟨w, u, -, -, hu, rfl⟩⟩ := step_next_cases h
  · exact ⟨hd, rfl⟩
  · obtain ⟨-, -, -, -, hdbg, -, hhooks⟩ := exec_sameSurroundings hu
    have hud : u.dbg = false := hdbg.trans hd
    rw [debugHook_detached u hud]
    exact ⟨hud, hhooks⟩

/-- Settles O20, by induction on the run. -/
theorem detachedDebuggerStaysDetached : Obligations.DetachedDebuggerStaysDetached := by
  intro s t hd
  refine reaches_keeps (P := fun t => t.dbg = false ∧ t.hooks = s.hooks) ?_ ⟨hd, rfl⟩
  rintro t u ⟨htd, hth⟩ hu
  obtain ⟨hud, huh⟩ := step_detached htd hu
  exact ⟨hud, huh.trans hth⟩

/-! ### The condition code -/

@[simp] theorem effectiveAddress_setCc (m : Address) (c : CC) (s : State) :
    effectiveAddress m (setCc c s) = effectiveAddress m s := by
  cases m <;> rfl

@[simp] theorem operandValue_setCc (op : Operand) (c : CC) (s : State) :
    operandValue op (setCc c s) = operandValue op s := by
  cases op <;> simp [operandValue]

section OtherCc

variable {i : Instr} {s t u : State} {k : FaultKind} (c : CC)

/-- With another cc, an instruction that is neither BRANCH nor CALL completes with the same state up to cc. -/
theorem Completes.withCc (h : Completes i s t) (hi : ∀ k o, i ≠ .branch k o ∧ i ≠ .call k o) :
    ∃ c', Completes i (setCc c s) (setCc c' t) := by
  cases h with
  | nop => exact ⟨c, .nop⟩
  | halt => exact ⟨c, .halt⟩
  | load hv => exact ⟨_, .load (by simpa using hv)⟩
  | add hv => exact ⟨_, .add (by simpa using hv)⟩
  | sub hv => exact ⟨_, .sub (by simpa using hv)⟩
  | @store rs m _ he =>
    have hc := Completes.store (rs := rs) (m := m) (s := setCc c s) (by simpa using he)
    rw [effectiveAddress_setCc] at hc
    exact ⟨c, hc⟩
  | branchTaken | branchPassed => exact absurd rfl (hi _ _).1
  | callTaken | callPassed => exact absurd rfl (hi _ _).2
  | ret hp => exact ⟨c, .ret hp⟩
  | push hv hp => exact ⟨c, .push (by simpa using hv) hp⟩
  | @pop m _ he hp =>
    have hc := Completes.pop (m := m) (s := setCc c s) (by simpa using he) hp
    rw [effectiveAddress_setCc] at hc
    exact ⟨c, hc⟩

/-- With another cc, an instruction that is neither BRANCH nor CALL takes the same fault. -/
theorem Faults.withCc (h : Faults i s k u) (hi : ∀ k o, i ≠ .branch k o ∧ i ≠ .call k o) :
    Faults i (setCc c s) k (setCc c u) := by
  cases h with
  | illop => exact .illop
  | unknown12to15 => exact .unknown12to15
  | unknown16to31 => exact .unknown16to31
  | unknown32to63 => exact .unknown32to63
  | loadBounds hv => exact .loadBounds (by simpa using hv)
  | addBounds hv => exact .addBounds (by simpa using hv)
  | subBounds hv => exact .subBounds (by simpa using hv)
  | storeImmediate => exact .storeImmediate
  | storeBounds he => exact .storeBounds (by simpa using he)
  | branchImmediate | branchCondition => exact absurd rfl (hi _ _).1
  | callImmediate | callCondition | callStack => exact absurd rfl (hi _ _).2
  | retStack hp => exact .retStack hp
  | pushBounds hv => exact .pushBounds (by simpa using hv)
  | pushStack hv hp => exact .pushStack (by simpa using hv) hp
  | popImmediate => exact .popImmediate
  | popBounds he => exact .popBounds (by simpa using he)
  | popStack he hp => exact .popStack (by simpa using he) hp

end OtherCc

/-- Settles O43: the run with the other cc completes or faults with the same one. -/
theorem ccIsReadOnlyByBranchAndCall : Obligations.CcIsReadOnlyByBranchAndCall := by
  intro i s c hi
  obtain ⟨t, ht⟩ | ⟨k, u, hu⟩ := completes_or_faults i s
  · obtain ⟨c', ht'⟩ := ht.withCc c hi
    exact ⟨t, setCc c' t, exec_of_completes ht, exec_of_completes ht', rfl⟩
  · exact ⟨raise k u, raise k (setCc c u), exec_of_faults hu, exec_of_faults (hu.withCc c hi), rfl⟩

/-! ### The program counter -/

@[simp] theorem effectiveAddress_setPc (m : Address) (p : Word) (s : State) :
    effectiveAddress m (setPc p s) = effectiveAddress m s := by
  cases m <;> rfl

section Pc

variable {s t u : State}

theorem Faults.pc_eq {i : Instr} {k : FaultKind} (h : Faults i s k u) : u.pc = s.pc := by
  obtain rfl | ⟨p, rfl⟩ := h.same_or_moved_pointer <;> rfl

theorem Completes.pc_sequential {i : Instr} (h : Completes i s t)
    (hi : ∀ c o, i ≠ .branch c o ∧ i ≠ .call c o) (hret : i ≠ .ret) : t.pc = s.pc := by
  cases h with
  | branchTaken | branchPassed => exact absurd rfl (hi _ _).1
  | callTaken | callPassed => exact absurd rfl (hi _ _).2
  | ret => exact absurd rfl hret
  | _ => rfl

theorem exec_pc_sequential {i : Instr} (h : exec i s = .next t)
    (hi : ∀ c o, i ≠ .branch c o ∧ i ≠ .call c o) (hret : i ≠ .ret) : t.pc = s.pc := by
  obtain hc | ⟨k, u, hf, rfl⟩ := exec_next_iff.1 h
  · exact hc.pc_sequential hi hret
  · exact hf.pc_eq

theorem Completes.pc_branchOrCall {i : Instr} {c : Cond} {m : Address} (h : Completes i s t)
    (hi : i = .branch c (.mem m) ∨ i = .call c (.mem m)) :
    t.pc = if conditionTable c s.cc = some true then effectiveAddress m s else s.pc := by
  obtain rfl | rfl := hi
  · cases h with
    | branchTaken hc => rw [if_pos hc, setPc_pc]
    | branchPassed hc => simp [hc]
  · cases h with
    | callTaken hc => rw [if_pos hc, setPc_pc]
    | callPassed hc => simp [hc]

/-- A taken CALL leaves the address after itself at the word the stack pointer addresses
(44_stack.md R131, D8). -/
theorem Completes.call_pushes_pc {c : Cond} {m : Address} (h : Completes (.call c (.mem m)) s t)
    (hc : conditionTable c s.cc = some true) : memRead (getReg Config.sp t) t = s.pc := by
  cases h with
  | callTaken => simp
  | callPassed hc' => simp [hc] at hc'

theorem Completes.ret_pc (h : Completes .ret s t) : t.pc = memRead (getReg Config.sp s) s := by
  cases h with
  | ret => rfl

end Pc

/-- A step that fetched the word `w` is the execution of `w` at the advanced `pc`, then the hook. -/
theorem step_fetched {s t : State} {w : Word} (hpc : s.pc < s.textsize) (hw : textRead s.pc s = some w)
    (h : step s = .next t) : ∃ u, exec (decode w) (setPc (s.pc + 1) s) = .next u ∧ t = debugHook u := by
  obtain ⟨-, ⟨hout, -⟩ | ⟨w', u, -, hw', hu, rfl⟩⟩ := step_next_cases h
  · exact absurd hpc (BitVec.not_lt.2 hout)
  · obtain rfl : w = w' := Option.some.inj (hw.symm.trans hw')
    exact ⟨u, hu, rfl⟩

/-- Settles O45: `pc` is advanced before the execution, and then moved by BRANCH, CALL and RET only. -/
theorem pcAfterAStep : Obligations.PcAfterAStep := by
  refine ⟨fun s t w hr hpc hw h => ?_, fun s t hr hout h => ?_⟩
  · obtain ⟨u, hu, rfl⟩ := step_fetched hpc hw h
    simp only [debugHook_run, debugHook_pc, getReg_debugHook, memRead_debugHook]
    have hs : (setPc (s.pc + 1) s).run ≠ .faulted := by simp [hr]
    refine ⟨fun hf => ?_, fun c m hi hn => ?_, fun c m hi hn hc => ?_, fun hi hn => ?_, fun hi hret => ?_⟩
    · obtain ⟨k, v, hv, rfl⟩ := faults_of_faulted hu hs hf
      exact hv.pc_eq
    · simpa using (completes_of_not_faulted hu hn).pc_branchOrCall hi
    · have hcall := completes_of_not_faulted hu hn
      rw [hi] at hcall
      exact hcall.call_pushes_pc hc
    · have hret := completes_of_not_faulted hu hn
      rw [hi] at hret
      exact hret.ret_pc
    · exact exec_pc_sequential hu hi hret
  · obtain ⟨-, ⟨-, rfl⟩ | ⟨-, -, hin, -⟩⟩ := step_next_cases h
    · rfl
    · exact absurd hin (BitVec.not_lt.2 hout)

/-! ### The limits and the stack pointer -/

theorem load_limits {img : Image} {attached : Bool} {s t : State} (h : State.load img attached s = .next t) :
    t.dataend ≤ t.datasize := by
  unfold State.load at h
  split at h
  next hv =>
    simp only [Image.valid, Bool.and_eq_true, decide_eq_true_eq] at hv
    obtain ⟨⟨hlimits, -⟩, -⟩ := hv
    obtain rfl := Host.Outcome.next.inj h
    exact hlimits
  next => simp at h

/-- A step leaves the limits of the data memory as they are (10_state.md R19). -/
theorem step_limits {s t : State} (h : step s = .next t) : t.datasize = s.datasize ∧ t.dataend = s.dataend := by
  obtain ⟨-, ⟨-, rfl⟩ | ⟨w, u, -, -, hu, rfl⟩⟩ := step_next_cases h
  · exact ⟨rfl, rfl⟩
  · obtain ⟨-, hsize, hend, -⟩ := exec_sameSurroundings hu
    simpa using ⟨hsize, hend⟩

/-- An instruction that adjusts the stack pointer and completes leaves it at the adjusted value, in the stack
region. -/
theorem Completes.pointer_adjusted {i : Instr} {s t : State} {p : Word} (h : Completes i s t)
    (hp : adjustedPointer i s = some p) : getReg Config.sp t = p ∧ InStack p s := by
  cases h with
  | callTaken hc hin =>
    obtain rfl : getReg Config.sp s - 1 = p := by simpa [adjustedPointer, hc] using hp
    exact ⟨by simp, hin⟩
  | push _ hin =>
    obtain rfl := Option.some.inj hp
    exact ⟨by simp, hin⟩
  | ret hpop | pop _ hpop =>
    obtain rfl := Option.some.inj hp
    exact ⟨by simp, hpop.1⟩
  | callPassed hc => simp [adjustedPointer, hc] at hp
  | _ => simp [adjustedPointer] at hp

theorem adjustedPointer_isSome {i : Instr} {s : State}
    (hi : (∃ src, i = .push src) ∨ (∃ dst, i = .pop dst) ∨ i = .ret ∨
      ∃ c o, i = .call c o ∧ conditionTable c s.cc = some true) : ∃ p, adjustedPointer i s = some p := by
  obtain ⟨src, rfl⟩ | ⟨dst, rfl⟩ | rfl | ⟨c, o, rfl, hc⟩ := hi
  · exact ⟨_, rfl⟩
  · exact ⟨_, rfl⟩
  · exact ⟨_, rfl⟩
  · exact ⟨_, if_pos hc⟩

/-- Settles O55: the limits by induction on the run, the stack pointer by the check of every stack operation. -/
theorem limitAndStackPointerInvariants : Obligations.LimitAndStackPointerInvariants := by
  refine ⟨fun img attached s t u hload hreach => ?_, fun i s t _ h ht hi => ?_⟩
  · refine reaches_keeps (P := fun u => u.dataend ≤ u.datasize) ?_ (load_limits hload) hreach
    intro t u hlimits hu
    obtain ⟨hsize, hend⟩ := step_limits hu
    rwa [hsize, hend]
  · obtain ⟨p, hp⟩ := adjustedPointer_isSome hi
    obtain ⟨hsp, hin⟩ := (completes_of_not_faulted h ht).pointer_adjusted hp
    rwa [← hsp] at hin

end Sys2Proof.Safety

/-! PROOFS. The text: what a load installs, that no run changes it, and that a fetch past its end does not
read it (20_memory.md). -/

namespace Sys2Proof.Safety

open Sys2Proof.Machine

/-! ### A run keeps the text and the limits -/

section TextAndLimits

variable {s t : State}

@[simp] theorem debugHook_text (s : State) : (debugHook s).text = s.text := by
  obtain ⟨d, n, h⟩ := debugHook_eq s; rw [h]

@[simp] theorem debugHook_textsize (s : State) : (debugHook s).textsize = s.textsize := by
  obtain ⟨d, n, h⟩ := debugHook_eq s; rw [h]

theorem textRead_congr (a : Word) (h : t.text = s.text) : textRead a t = textRead a s := by
  rw [textRead, textRead, h]

/-- A step leaves the text memory and its size as they are: its stores go to the data memory. -/
theorem step_text (h : step s = .next t) : t.text = s.text ∧ t.textsize = s.textsize := by
  obtain ⟨-, ⟨-, rfl⟩ | ⟨w, u, -, -, hu, rfl⟩⟩ := step_next_cases h
  · exact ⟨rfl, rfl⟩
  · obtain ⟨hsize, -, -, htext, -⟩ := exec_sameSurroundings hu
    simpa using ⟨htext, hsize⟩

theorem reaches_text (h : Reaches s t) : t.text = s.text ∧ t.textsize = s.textsize := by
  refine reaches_keeps (P := fun t => t.text = s.text ∧ t.textsize = s.textsize) ?_ ⟨rfl, rfl⟩ h
  rintro t u ⟨htext, hsize⟩ hu
  obtain ⟨hutext, husize⟩ := step_text hu
  exact ⟨hutext.trans htext, husize.trans hsize⟩

theorem reaches_limits (h : Reaches s t) : t.datasize = s.datasize ∧ t.dataend = s.dataend := by
  refine reaches_keeps (P := fun t => t.datasize = s.datasize ∧ t.dataend = s.dataend) ?_ ⟨rfl, rfl⟩ h
  rintro t u ⟨hsize, hend⟩ hu
  obtain ⟨husize, huend⟩ := step_limits hu
  exact ⟨husize.trans hsize, huend.trans hend⟩

end TextAndLimits

/-- Settles O18, by induction on the run: no instruction and no debug hook writes the text or a limit. -/
theorem runNeverChangesTextOrLimits : Obligations.RunNeverChangesTextOrLimits := by
  intro s t h
  obtain ⟨htext, htextsize⟩ := reaches_text h
  obtain ⟨hdatasize, hdataend⟩ := reaches_limits h
  exact ⟨htext, fun a => textRead_congr a htext, htextsize, hdatasize, hdataend⟩

/-! ### The text of a loaded core -/

/-- A load that is not refused installs the image's text, whose length is `textsize`
(70_reset_and_hazards.md R178). -/
theorem load_text {img : Image} {attached : Bool} {s t : State} (h : State.load img attached s = .next t) :
    t.text = Memory.ofWords 0 img.text ∧ img.text.length = t.textsize.toNat := by
  unfold State.load at h
  split at h
  next hv =>
    simp only [Image.valid, Bool.and_eq_true, decide_eq_true_eq] at hv
    obtain ⟨⟨-, hlength⟩, -⟩ := hv
    obtain rfl := Host.Outcome.next.inj h
    exact ⟨rfl, hlength⟩
  next => simp at h

theorem textRead_of_installed {ws : List Word} {s : State} (a : Word) (h : s.text = Memory.ofWords 0 ws) :
    textRead a s = ws[a.toNat]? := by
  rw [textRead, h, ← Memory.read_ofWords 0 ws a.toNat, Nat.zero_add]

/-! ### The fetch past the text -/

/-- The fault of a failed fetch is the whole step, and no text word occurs in it
(40_step_and_addressing.md R76). -/
theorem step_past_text {s t : State} (hpc : s.textsize ≤ s.pc) (h : step s = .next t) :
    t = raiseAt .textSegmentation s.pc s := by
  obtain ⟨-, ⟨-, ht⟩ | ⟨-, -, hin, -⟩⟩ := step_next_cases h
  · exact ht
  · exact absurd hin (BitVec.not_lt.2 hpc)

/-- Settles O58: every state of the run has the text the load installed, as many words as `textsize` says,
and the step past them is the fault of the failed fetch whatever the text memory is. -/
theorem textWordsAreTheImages : Obligations.TextWordsAreTheImages := by
  intro img attached s t u hload hreach
  obtain ⟨hinstalled, hlength⟩ := load_text hload
  obtain ⟨htext, hsize⟩ := reaches_text hreach
  rw [← hsize] at hlength
  have hread (a : Word) : textRead a u = img.text[a.toNat]? :=
    textRead_of_installed a (htext.trans hinstalled)
  refine ⟨fun a ha => ⟨?_, hread a⟩, fun a ha => ?_, fun m v v' _ hpc hv hv' => ?_⟩
  · rw [hread, isSome_getElem?, hlength]
    exact BitVec.lt_def.1 ha
  · rw [hread, List.getElem?_eq_none_iff, hlength]
    exact BitVec.le_def.1 ha
  · obtain rfl := step_past_text hpc hv
    exact step_past_text (s := { u with text := m }) hpc hv'

end Sys2Proof.Safety

/-! PROOFS. The encoding: the decoder, the encoder and the don't-care bits (30_encoding.md). -/

namespace Sys2Proof

/-! ### The fields of a word -/

/-- A word is packed from its own fields (30_encoding.md R51). -/
theorem packWord_fields (w : Word) :
    packWord (fields w).imm20 (fields w).regcond (BitVec.ofBool (fields w).idxFlag)
      (BitVec.ofBool (fields w).immFlag) (fields w).op = w := by
  apply BitVec.eq_of_getLsbD_eq
  intro k hk
  rw [packWord_getLsbD]
  simp only [fields, BitVec.getLsbD_extractLsb', BitVec.getLsbD_ofBool]
  split_ifs with hop hi hx hr
  · simp [hop]
  · obtain rfl : k = 6 := by omega
    rfl
  · obtain rfl : k = 7 := by omega
    rfl
  · have hk8 : 8 + (k - 6 - 1 - 1) = k := by omega
    simp [hr, hk8]
  · have hk12 : 12 + (k - 6 - 1 - 1 - 4) = k := by omega
    have hlt : k - 6 - 1 - 1 - 4 < 20 := by omega
    simp [hlt, hk12]

/-- A mask is applied field by field. -/
theorem packWord_and (o o' : BitVec 20) (r r' : BitVec 4) (x x' i i' : BitVec 1) (p p' : BitVec 6) :
    packWord o r x i p &&& packWord o' r' x' i' p' =
      packWord (o &&& o') (r &&& r') (x &&& x') (i &&& i') (p &&& p') := by
  apply BitVec.eq_of_getLsbD_eq
  intro k _
  simp only [BitVec.getLsbD_and, packWord_getLsbD]
  split_ifs <;> rfl

/-- The indexed layout divides the operand field between the offset and the register (R52). -/
theorem off16_append_rindex (w : Word) : (fields w).off16 ++ (fields w).rindex = (fields w).imm20 :=
  BitVec.extractLsb'_append_extractLsb'_eq_extractLsb' rfl

/-! ### The mode of an operand -/

section OperandOf

variable {f : Fields}

theorem operandOf_imm (hi : f.immFlag = true) : operandOf f = .imm f.imm20 := by
  simp [operandOf, isImmediate, hi]

theorem operandOf_abs (hi : f.immFlag = false) (hx : f.idxFlag = false) :
    operandOf f = .mem (.abs f.abs20) := by
  simp [operandOf, isImmediate, isIndexed, hi, hx]

theorem operandOf_idx (hi : f.immFlag = false) (hx : f.idxFlag = true) :
    operandOf f = .mem (.idx (regOf f.rindex) f.off16) := by
  simp [operandOf, isImmediate, isIndexed, hi, hx]

end OperandOf

/-- The operand of a decoded word is in the layout its flags select. -/
theorem operandLayout_operandOf (w : Word) : Safety.OperandLayout w (operandOf (fields w)) :=
  ⟨fun hi => operandOf_imm (f := fields w) hi, fun hi hx => operandOf_abs (f := fields w) hi hx,
    fun hi hx => ⟨regOf (fields w).rindex, rfl, operandOf_idx (f := fields w) hi hx⟩⟩

/-! ### The encoding of an operand -/

section EncodeWith

variable (op : BitVec 6) (rc : BitVec 4) (o : Operand)

@[simp] theorem fields_encodeWith_op : (fields (encodeWith op rc o)).op = op :=
  Laws.EncodedOpcode.encodeWith_opcode op rc o

@[simp] theorem fields_encodeWith_regcond : (fields (encodeWith op rc o)).regcond = rc := by
  rcases o with n | a | ⟨r, off⟩ <;> simp only [encodeWith, fields_packWord]

@[simp] theorem operandOf_encodeWith : operandOf (fields (encodeWith op rc o)) = o := by
  rcases o with n | a | ⟨r, off⟩
  · simp [encodeWith, fields_packWord, operandOf, isImmediate]
  · simp [encodeWith, fields_packWord, operandOf, isImmediate, isIndexed]
  · have hoff : (off ++ BitVec.ofFin (w := 4) r).extractLsb' 4 16 = off := BitVec.extractLsb'_append_eq_left
    have hr : (off ++ BitVec.ofFin (w := 4) r).extractLsb' 0 4 = BitVec.ofFin r :=
      BitVec.extractLsb'_append_eq_right
    simp only [encodeWith, fields_packWord, hoff, hr]
    rfl

end EncodeWith

@[simp] theorem fields_encodeNil_op (op : BitVec 6) : (fields (encodeNil op)).op = op :=
  Laws.EncodedOpcode.encodeNil_opcode op

/-! ### Registers and condition selectors -/

@[simp] theorem regOf_ofFin (r : Reg) : regOf (BitVec.ofFin (w := 4) r) = r := rfl

@[simp] theorem ofFin_regOf (r : BitVec 4) : BitVec.ofFin (w := 4) (regOf r) = r := rfl

/-- The selectors 0..6 name the conditions of R57 and any other stays as it is. -/
@[simp] theorem selector_condOf : ∀ sel : BitVec 4, (condOf sel).selector = sel := by decide

theorem condOf_wellFormed : ∀ sel : BitVec 4, (condOf sel).wellFormed = true := by decide

theorem condOf_selector {c : Cond} (h : c.wellFormed = true) : condOf c.selector = c := by
  cases c with
  | nc | eq | ne | gt | ge | lt | le => rfl
  | invalid sel => revert sel; decide

/-! ### The instruction that the opcode selects -/

/-- The opcodes past the twelve instructions are divided among the unknown rows (R143). -/
theorem instrOf_unknown {f : Fields} (h : 12 ≤ f.op.toNat) :
    instrOf f =
      if f.op.toNat < 16 then .unknown12to15 f.op
      else if f.op.toNat < 32 then .unknown16to31 f.op else .unknown32to63 f.op := by
  unfold instrOf
  split
  case h_13 => rfl
  all_goals omega

/-- The rows of R55: what the opcode field of `f` selects, and where each row takes its arguments from. -/
inductive Selects (f : Fields) : Instr → Prop where
  | illop (h : f.op = 0) : Selects f .illop
  | nop (h : f.op = 1) : Selects f .nop
  | load (h : f.op = 2) : Selects f (.load (regOf f.regcond) (operandOf f))
  | store (h : f.op = 3) : Selects f (.store (regOf f.regcond) (operandOf f))
  | add (h : f.op = 4) : Selects f (.add (regOf f.regcond) (operandOf f))
  | sub (h : f.op = 5) : Selects f (.sub (regOf f.regcond) (operandOf f))
  | branch (h : f.op = 6) : Selects f (.branch (condOf f.regcond) (operandOf f))
  | call (h : f.op = 7) : Selects f (.call (condOf f.regcond) (operandOf f))
  | ret (h : f.op = 8) : Selects f .ret
  | push (h : f.op = 9) : Selects f (.push (operandOf f))
  | pop (h : f.op = 10) : Selects f (.pop (operandOf f))
  | halt (h : f.op = 11) : Selects f .halt
  | unknown12to15 (h : 12 ≤ f.op.toNat ∧ f.op.toNat ≤ 15) : Selects f (.unknown12to15 f.op)
  | unknown16to31 (h : 16 ≤ f.op.toNat ∧ f.op.toNat ≤ 31) : Selects f (.unknown16to31 f.op)
  | unknown32to63 (h : 32 ≤ f.op.toNat) : Selects f (.unknown32to63 f.op)

/-- The decoder answers a row of the table for every opcode (R54, R55). -/
theorem selects_instrOf (f : Fields) : Selects f (instrOf f) := by
  unfold instrOf
  split
  next h => exact .illop (BitVec.eq_of_toNat_eq h)
  next h => exact .nop (BitVec.eq_of_toNat_eq h)
  next h => exact .load (BitVec.eq_of_toNat_eq h)
  next h => exact .store (BitVec.eq_of_toNat_eq h)
  next h => exact .add (BitVec.eq_of_toNat_eq h)
  next h => exact .sub (BitVec.eq_of_toNat_eq h)
  next h => exact .branch (BitVec.eq_of_toNat_eq h)
  next h => exact .call (BitVec.eq_of_toNat_eq h)
  next h => exact .ret (BitVec.eq_of_toNat_eq h)
  next h => exact .push (BitVec.eq_of_toNat_eq h)
  next h => exact .pop (BitVec.eq_of_toNat_eq h)
  next h => exact .halt (BitVec.eq_of_toNat_eq h)
  next =>
    have hge : 12 ≤ f.op.toNat := by
      simp only [imp_false] at *
      omega
    split
    · exact .unknown12to15 (by omega)
    · split
      · exact .unknown16to31 (by omega)
      · exact .unknown32to63 (by omega)

/-- No opcode selects two rows. -/
theorem Selects.instrOf_eq {f : Fields} {i : Instr} (h : Selects f i) : instrOf f = i := by
  cases h with
  | illop h | nop h | load h | store h | add h | sub h | branch h | call h | ret h | push h | pop h | halt h =>
    rw [instrOf, h]
    rfl
  | unknown12to15 h => rw [instrOf_unknown (by omega), if_pos (by omega)]
  | unknown16to31 h => rw [instrOf_unknown (by omega), if_neg (by omega), if_pos (by omega)]
  | unknown32to63 h => rw [instrOf_unknown (by omega), if_neg (by omega), if_neg (by omega)]

theorem instrOf_eq_iff {f : Fields} {i : Instr} : instrOf f = i ↔ Selects f i :=
  ⟨fun h => h ▸ selects_instrOf f, Selects.instrOf_eq⟩

theorem selects_decode (w : Word) : Selects (fields w) (decode w) := selects_instrOf _

theorem decode_eq_iff {w : Word} {i : Instr} : decode w = i ↔ Selects (fields w) i := instrOf_eq_iff

theorem Selects.wellFormed {f : Fields} {i : Instr} (h : Selects f i) : i.wellFormed = true := by
  cases h with
  | illop | nop | load | store | add | sub | ret | push | pop | halt => rfl
  | branch | call => exact condOf_wellFormed _
  | unknown12to15 h | unknown16to31 h | unknown32to63 h => exact decide_eq_true h

theorem Selects.opcode_eq {f : Fields} {i : Instr} (h : Selects f i) : i.opcode = f.op := by
  cases h with
  | illop h | nop h | load h | store h | add h | sub h | branch h | call h | ret h | push h | pop h | halt h =>
    exact h.symm
  | unknown12to15 | unknown16to31 | unknown32to63 => rfl

/-! ### Decoding an encoding -/

/-- The opcode field of an encoding selects the instruction that was encoded (R67). -/
theorem selects_encode {i : Instr} (h : i.wellFormed = true) : Selects (fields (encode i)) i := by
  cases i with
  | illop => exact .illop (fields_encodeNil_op 0)
  | nop => exact .nop (fields_encodeNil_op 1)
  | ret => exact .ret (fields_encodeNil_op 8)
  | halt => exact .halt (fields_encodeNil_op 11)
  | load rd src =>
    simpa [encode, Instr.opcode] using Selects.load (fields_encodeWith_op 2 (BitVec.ofFin rd) src)
  | store rs dst =>
    simpa [encode, Instr.opcode] using Selects.store (fields_encodeWith_op 3 (BitVec.ofFin rs) dst)
  | add rd src =>
    simpa [encode, Instr.opcode] using Selects.add (fields_encodeWith_op 4 (BitVec.ofFin rd) src)
  | sub rd src =>
    simpa [encode, Instr.opcode] using Selects.sub (fields_encodeWith_op 5 (BitVec.ofFin rd) src)
  | branch cond target =>
    have hcond : condOf cond.selector = cond := condOf_selector h
    simpa [encode, Instr.opcode, hcond] using Selects.branch (fields_encodeWith_op 6 cond.selector target)
  | call cond target =>
    have hcond : condOf cond.selector = cond := condOf_selector h
    simpa [encode, Instr.opcode, hcond] using Selects.call (fields_encodeWith_op 7 cond.selector target)
  | push src => simpa [encode, Instr.opcode] using Selects.push (fields_encodeWith_op 9 0 src)
  | pop dst => simpa [encode, Instr.opcode] using Selects.pop (fields_encodeWith_op 10 0 dst)
  | unknown12to15 op =>
    have hrange : 12 ≤ op.toNat ∧ op.toNat ≤ 15 := of_decide_eq_true h
    simpa [encode, Instr.opcode] using
      Selects.unknown12to15 (f := fields (encodeNil op)) (by simpa using hrange)
  | unknown16to31 op =>
    have hrange : 16 ≤ op.toNat ∧ op.toNat ≤ 31 := of_decide_eq_true h
    simpa [encode, Instr.opcode] using
      Selects.unknown16to31 (f := fields (encodeNil op)) (by simpa using hrange)
  | unknown32to63 op =>
    have hrange : 32 ≤ op.toNat := of_decide_eq_true h
    simpa [encode, Instr.opcode] using
      Selects.unknown32to63 (f := fields (encodeNil op)) (by simpa using hrange)

/-- Settles O1: the instruction is the one that the fields of its own encoding select. -/
theorem decodeOfEncodeIsTheInstruction : Obligations.DecodeOfEncodeIsTheInstruction :=
  fun _ h => decode_eq_iff.2 (selects_encode h)

/-! ### Encoding a decoded word -/

/-- A word without operand keeps its opcode alone (R61). -/
theorem encodeNil_fields_op (w : Word) : encodeNil (fields w).op = w &&& 0x0000003F := by
  have hmask : (0x0000003F : Word) = packWord 0 0 0 0 (BitVec.allOnes 6) := by decide
  conv_rhs => rw [hmask, ← packWord_fields w, packWord_and]
  simp [encodeNil, -BitVec.reduceAllOnes]

/-- A word with an operand keeps every bit, but X in immediate mode (R61). -/
theorem encodeWith_operandOf (w : Word) :
    encodeWith (fields w).op (fields w).regcond (operandOf (fields w)) =
      if (fields w).immFlag then w &&& 0xFFFFFF7F else w := by
  have hmask : (0xFFFFFF7F : Word) =
      packWord (BitVec.allOnes 20) (BitVec.allOnes 4) 0 1 (BitVec.allOnes 6) := by decide
  have hw := packWord_fields w
  cases hi : (fields w).immFlag with
  | true =>
    rw [operandOf_imm hi, if_pos rfl]
    conv_rhs => rw [hmask, ← hw, packWord_and]
    simp [encodeWith, hi, -BitVec.reduceAllOnes]
  | false =>
    rw [if_neg Bool.false_ne_true]
    cases hx : (fields w).idxFlag with
    | true =>
      rw [hi, hx, ← off16_append_rindex] at hw
      rwa [operandOf_idx hi hx]
    | false =>
      rw [hi, hx] at hw
      rwa [operandOf_abs hi hx]

/-- Encoding with a zero `regcond`, as PUSH and POP do, is clearing it (R61). -/
theorem encodeWith_zero (op : BitVec 6) (rc : BitVec 4) (o : Operand) :
    encodeWith op 0 o = encodeWith op rc o &&& 0xFFFFF0FF := by
  have hmask : (0xFFFFF0FF : Word) = packWord (BitVec.allOnes 20) 0 1 1 (BitVec.allOnes 6) := by decide
  rcases o with n | a | ⟨r, off⟩ <;> simp [encodeWith, hmask, packWord_and, -BitVec.reduceAllOnes]

/-- The word with its don't-care bits cleared is the one the encoder makes of its fields: the opcode alone,
the opcode and the operand, or every field. -/
theorem dontCareCleared_eq (w : Word) :
    Safety.dontCareCleared w =
      if (fields w).op.toNat = 0 ∨ (fields w).op.toNat = 1 ∨ (fields w).op.toNat = 8 ∨
          11 ≤ (fields w).op.toNat then
        encodeNil (fields w).op
      else if (fields w).op.toNat = 9 ∨ (fields w).op.toNat = 10 then
        encodeWith (fields w).op 0 (operandOf (fields w))
      else encodeWith (fields w).op (fields w).regcond (operandOf (fields w)) := by
  rw [encodeNil_fields_op, encodeWith_zero _ (fields w).regcond, encodeWith_operandOf]
  rfl

/-- Settles O2: in each row of the opcode table the encoder packs the fields that the decoder kept. -/
theorem encodeOfDecodeClearsDontCareBits : Obligations.EncodeOfDecodeClearsDontCareBits := by
  intro w
  have hrow : Selects (fields w) (decode w) := selects_decode w
  rw [dontCareCleared_eq]
  generalize decode w = i at hrow
  cases hrow with
  | illop h | nop h | load h | store h | add h | sub h | branch h | call h | ret h | push h | pop h | halt h =>
    simp [h, encode, Instr.opcode]
  | unknown12to15 h | unknown16to31 h | unknown32to63 h => exact (if_pos (by omega)).symm

/-- Settles O3: every row of the opcode table is well formed, and the 32 bits of the table's numbering are the
whole word. -/
theorem everyWordDecodesWellFormed : Obligations.EveryWordDecodesWellFormed := by
  intro w
  refine ⟨(selects_decode w).wellFormed, ?_⟩
  have hmod : BitVec.ofNat 32 (w.toNat % 2 ^ 32) = w := by
    rw [Nat.mod_eq_of_lt w.isLt, BitVec.ofNat_toNat, BitVec.setWidth_eq]
  rw [decodeTableWord, if_pos (Nat.le_refl 32), hmod]

/-- Settles O4: each row of the opcode table has the opcode that selects it. -/
theorem opcodeFieldSelectsTheInstruction : Obligations.OpcodeFieldSelectsTheInstruction :=
  fun w => ⟨(selects_decode w).wellFormed, (selects_decode w).opcode_eq⟩

/-- Settles O5: the rows of the opcode table that carry the operand take it, and their register or condition,
from the fields of the word. -/
theorem flagsSelectTheOperandLayout : Obligations.FlagsSelectTheOperandLayout := by
  simp only [Obligations.FlagsSelectTheOperandLayout, decode_eq_iff]
  refine ⟨fun w r o h => ?_, fun w c o h => ?_, fun w o h => ?_⟩
  · obtain h | h | h | h := h <;> cases h <;> exact ⟨rfl, operandLayout_operandOf w⟩
  · obtain h | h := h <;> cases h <;>
      exact ⟨selector_condOf _, condOf_wellFormed _, operandLayout_operandOf w⟩
  · obtain h | h := h <;> cases h <;> exact operandLayout_operandOf w

/-- Settles O6: the ten words are evaluated. -/
theorem knownWordsDecode : Obligations.KnownWordsDecode := by
  unfold Obligations.KnownWordsDecode
  decide

end Sys2Proof

/-! PROOFS. The step and the address generator (40_step_and_addressing.md). -/

namespace Sys2Proof.Safety

open Sys2Proof.Machine

/-! ### The fetch -/

section Fetch

variable {s : State}

/-- A fetch at or past `textsize` (40_step_and_addressing.md R76). -/
theorem step_eq_textSegmentation (hr : s.run = .running) (hpc : s.textsize ≤ s.pc) :
    step s = .next (raiseAt .textSegmentation s.pc s) := by
  rw [step, hr]
  exact if_pos hpc

/-- A fetch below `textsize` that finds a word (40_step_and_addressing.md R75). -/
theorem step_eq_runWord {w : Word} (hr : s.run = .running) (hpc : s.pc < s.textsize)
    (hw : textRead s.pc s = some w) : step s = runWord w s := by
  simp only [step, hr, runStep, if_neg (BitVec.not_le.2 hpc), hw]

end Fetch

/-- A word that was fetched runs to a next state, whatever instruction it is: a fault of the program is one. -/
theorem runWord_answers_next (w : Word) (s : State) : ∃ t, runWord w s = .next t := by
  obtain ⟨u, hu⟩ := exec_answers_next (decode w) (setPc (s.pc + 1) s)
  exact ⟨debugHook u, runWord_next hu⟩

/-- Settles O14: the fault of the failed fetch is recorded at the `pc` that could not be fetched. -/
theorem fetchPastTheTextFaults : Obligations.FetchPastTheTextFaults :=
  fun _ hr hpc => step_eq_textSegmentation hr hpc

/-- Settles O13: the execution of the decoded instruction always answers a next state, and the hook's two
cases are those of the statement. -/
theorem stepRunsTheDecodedInstruction : Obligations.StepRunsTheDecodedInstruction := by
  rintro s w _ hr hpc hw rfl
  refine ⟨(selects_decode w).wellFormed, ?_⟩
  obtain ⟨u, hu⟩ := exec_answers_next (decode w) (setPc (s.pc + 1) s)
  have hexec : exec (decode w) { s with pc := s.pc + 1 } = .next u := hu
  rw [step_eq_runWord hr hpc hw, runWord_next hu, hexec]
  obtain ⟨hrun, hdbg, hhook⟩ | ⟨hquiet, hhook⟩ := debugHook_cases u
  · rw [hhook]
    exact (if_pos ⟨hrun, hdbg⟩).symm
  · rw [hhook]
    exact (if_neg hquiet).symm

/-- Settles O17: past the text the failed fetch is a next state, and below `textsize` the invariant provides
the word to run. -/
theorem runningCoreAlwaysSteps : Obligations.RunningCoreAlwaysSteps := by
  intro s hs hr
  obtain hpc | hpc := word_lt_or_ge s.pc s.textsize
  · obtain ⟨w, hw⟩ := Option.isSome_iff_exists.1 (hs.textFull s.pc hpc)
    rw [step_eq_runWord hr hpc hw]
    exact runWord_answers_next w s
  · exact ⟨_, step_eq_textSegmentation hr hpc⟩

/-! ### Continue or stop -/

section Continue

variable {s t : State}

/-- HALT stops the core (40_step_and_addressing.md R85). -/
theorem Completes.halt_run (h : Completes .halt s t) : t.run = .halted := by
  cases h with
  | halt => rfl

/-- Every other instruction that completes continues (40_step_and_addressing.md R85). -/
theorem Completes.run_eq {i : Instr} (h : Completes i s t) (hi : i ≠ .halt) : t.run = s.run :=
  h.run_or_halt.resolve_right fun ⟨hhalt, _⟩ => hi hhalt

end Continue

/-- Settles O59: what did not fault completed, and of the instructions that complete only HALT writes the run
state. -/
theorem everyInstructionButHaltContinues : Obligations.EveryInstructionButHaltContinues := by
  intro s t w hr hpc hw h ht
  obtain ⟨u, hu, rfl⟩ := step_fetched hpc hw h
  have hdone := completes_of_not_faulted hu (debugHook_run u ▸ ht)
  refine ⟨fun hhalt => ?_, fun hhalt => ?_⟩
  · rw [hhalt] at hdone
    rw [debugHook_run, hdone.halt_run]
  · have hrun : (debugHook u).run = .running := by
      rw [debugHook_run, hdone.run_eq hhalt, setPc_run, hr]
    exact ⟨hrun, fun w' hpc' hw' => step_eq_runWord hrun hpc' hw'⟩

/-! ### The effective address -/

/-- The absolute address is the 20-bit field verbatim (40_step_and_addressing.md R80, D5). -/
theorem effectiveAddress_abs_toNat (a : BitVec 20) (s : State) : (effectiveAddress (.abs a) s).toNat = a.toNat :=
  BitVec.toNat_setWidth_of_le (by decide)

/-- Sign extension keeps the integer a field stands for (00_scope.md R5). -/
theorem sext_toInt {n : Nat} (v : BitVec n) (h : n ≤ 32) : (sext v).toInt = v.toInt :=
  BitVec.toInt_signExtend_of_le h

/-- A word plus a signed offset wraps modulo 2^32, below zero as well as above the top. -/
theorem toNat_add_emod (a d : Word) : ((a + d).toNat : Int) = (a.toNat + d.toInt) % 2 ^ 32 := by
  have hd : d.toInt % 2 ^ 32 = (d.toNat : Int) % 2 ^ 32 := by
    rw [BitVec.toInt_eq_toNat_bmod]
    exact Int.bmod_emod
  calc ((a + d).toNat : Int)
      = (a.toNat + d.toNat) % 2 ^ 32 := by simp [BitVec.toNat_add]
    _ = (a.toNat + d.toInt) % 2 ^ 32 := by rw [Int.add_emod, ← hd, ← Int.add_emod]

/-- The indexed address is the register plus the signed 16-bit offset (40_step_and_addressing.md R80, D5). -/
theorem effectiveAddress_idx_toNat (r : Reg) (off : BitVec 16) (s : State) :
    ((effectiveAddress (.idx r off) s).toNat : Int) = ((getReg r s).toNat + off.toInt) % 2 ^ 32 := by
  rw [effectiveAddress, toNat_add_emod, sext_toInt off (by decide)]

/-- Settles O56, by the two forms of an address. -/
theorem effectiveAddressWraps : Obligations.EffectiveAddressWraps :=
  fun s => ⟨fun a => effectiveAddress_abs_toNat a s, fun r off => effectiveAddress_idx_toNat r off s⟩

end Sys2Proof.Safety

/-! PROOFS. LOAD and STORE, and what an instruction with a register result leaves unchanged
(41_data_transfer.md, 42_arithmetic.md). -/

namespace Sys2Proof.Safety

open Sys2Proof.Machine

/-! ### The terms of the statements -/

theorem faultTaken_eq_raise (k : FaultKind) (s : State) : faultTaken k s = raise k s := rfl

/-- `SetCC` computes the sign that the statements describe (42_arithmetic.md R105). -/
theorem signOf_ccOf (r : Word) : SignOf r (ccOf r) where
  left hneg := if_pos hneg
  right := by
    refine ⟨fun hpos => ?_, fun hzero => ?_⟩
    · rw [ccOf, if_neg (by omega), if_pos hpos]
    · rw [hzero]; rfl

/-! ### The run state and the fault record -/

section Record

variable {i : Instr} {s t : State}

theorem Completes.record_eq (h : Completes i s t) : t.faultKind = s.faultKind ∧ t.faultAddr = s.faultAddr := by
  cases h <;> exact ⟨rfl, rfl⟩

/-- Only HALT and a fault change the run state, and only a fault the record (60_exceptions.md R157). -/
theorem exec_sameRunOrFault (h : exec i s = .next t) (hi : i ≠ .halt) : SameRunOrFault s t := by
  obtain hc | ⟨k, u, hf, rfl⟩ := exec_next_iff.1 h
  · exact .inl ⟨hc.run_eq hi, hc.record_eq⟩
  · exact .inr ⟨raise_run u k, ⟨k, raise_faultKind u k⟩, by rw [raise_faultAddr, hf.pc_eq]⟩

end Record

/-! ### LOAD, ADD and SUB -/

/-- All that LOAD, ADD and SUB can do: a result goes to the destination and to cc, or the operand is outside the
data (41_data_transfer.md R95, 42_arithmetic.md R106, R107). -/
theorem exec_registerResult_cases {i : Instr} {rd : Reg} {src : Operand} {s t : State}
    (hi : i = .load rd src ∨ i = .add rd src ∨ i = .sub rd src) (h : exec i s = .next t) :
    (∃ r, t = updateCc r (setReg rd r s)) ∨ t = raise .dataSegmentation s := by
  obtain hc | ⟨k, u, hf, rfl⟩ := exec_next_iff.1 h
  · obtain rfl | rfl | rfl := hi <;> cases hc <;> exact .inl ⟨_, rfl⟩
  · obtain rfl | rfl | rfl := hi <;> cases hf <;> exact .inr rfl

/-- Settles O26: `operandValue` decides between the two cases, and `ccOf` is the sign. -/
theorem loadWritesItsRegister : Obligations.LoadWritesItsRegister := by
  intro rd src s
  refine ⟨fun v hv => ⟨ccOf v, signOf_ccOf v, ?_⟩, fun hnone => ?_⟩
  · exact exec_of_completes (.load hv)
  · rw [faultTaken_eq_raise]
    exact exec_of_faults (.loadBounds hnone)

/-- Settles O46: the register file and cc are all that a result is written to, and a fault precedes it. -/
theorem registerResultFrame : Obligations.RegisterResultFrame := by
  intro i rd src s t hi h
  have hhalt : i ≠ .halt := by
    obtain rfl | rfl | rfl := hi <;> simp
  have hrun := exec_sameRunOrFault h hhalt
  have hsame := exec_sameSurroundings h
  obtain ⟨r, rfl⟩ | rfl := exec_registerResult_cases hi h
  · refine ⟨fun q hq => ?_, rfl, fun _ => rfl, fun hs hfault => absurd hfault hs, hsame, hrun⟩
    rw [getReg_updateCc, getReg_setReg_other s r hq]
  · exact ⟨fun _ _ => rfl, rfl, fun _ => rfl, fun _ _ => ⟨rfl, rfl⟩, hsame, hrun⟩

/-! ### STORE -/

/-- All that STORE can do: one data word is written, or a fault is taken in the state before
(41_data_transfer.md R96). -/
theorem exec_store_cases {rs : Reg} {dst : Operand} {s t : State} (h : exec (.store rs dst) s = .next t) :
    (∃ m, dst = .mem m ∧ effectiveAddress m s < s.datasize ∧
      t = memWrite (effectiveAddress m s) (getReg rs s) s) ∨ ∃ k, t = raise k s := by
  obtain hc | ⟨k, u, hf, rfl⟩ := exec_next_iff.1 h
  · cases hc with
    | store he => exact .inl ⟨_, rfl, he, rfl⟩
  · cases hf with
    | storeImmediate | storeBounds => exact .inr ⟨_, rfl⟩

/-- Settles O27, one clause for each way a STORE can end. -/
theorem storeWritesOneWord : Obligations.StoreWritesOneWord := by
  intro rs s
  refine ⟨fun m hin => ?_, fun m hout => ?_, fun n => ?_⟩
  · exact ⟨_, exec_of_completes (.store hin), rfl, memRead_memWrite_same _ _ s,
      fun b hb => memRead_memWrite_other _ s hb⟩
  · rw [faultTaken_eq_raise]
    exact exec_of_faults (.storeBounds hout)
  · rw [faultTaken_eq_raise]
    exact exec_of_faults .storeImmediate

/-- Settles O47: the one word written is in memory mode and in bounds, so the other clauses exclude it. -/
theorem storeFrame : Obligations.StoreFrame := by
  intro rs dst s t h
  have hrun := exec_sameRunOrFault h (by simp)
  have hsame := exec_sameSurroundings h
  obtain ⟨m, rfl, hin, rfl⟩ | ⟨k, rfl⟩ := exec_store_cases h
  · refine ⟨fun _ => rfl, rfl, rfl, fun m' hm b hb => ?_, fun n hn => ?_, fun m' hm hout => ?_, hsame, hrun⟩
    · obtain rfl := Operand.mem.inj hm
      exact memRead_memWrite_other _ s hb
    · cases hn
    · obtain rfl := Operand.mem.inj hm
      exact absurd hin (BitVec.not_lt.2 hout)
  · exact ⟨fun _ => rfl, rfl, rfl, fun _ _ _ _ => rfl, fun _ _ _ => rfl, fun _ _ _ _ => rfl, hsame, hrun⟩

end Sys2Proof.Safety

/-! PROOFS. ADD and SUB modulo 2^32, and the condition code (42_arithmetic.md). -/

namespace Sys2Proof.Safety

open Sys2Proof.Machine

/-! ### ADD and SUB -/

/-- A word minus a word wraps modulo 2^32, below zero as well (42_arithmetic.md R108, D6). -/
theorem toNat_sub_emod (a b : Word) : ((a - b).toNat : Int) = (a.toNat - b.toNat : Int) % 2 ^ 32 := by
  have hb : b.toNat < 2 ^ 32 := b.isLt
  rw [BitVec.toNat_sub]
  omega

/-- Settles O28: the sum of two words is the wrapped sum of the numbers they stand for. -/
theorem addWritesTheWrappedSum : Obligations.AddWritesTheWrappedSum := by
  intro rd src s
  refine ⟨fun v hv => ?_, fun hnone => ?_⟩
  · have hsum : (getReg rd s + v).toNat = ((getReg rd s).toNat + v.toNat) % 2 ^ 32 := BitVec.toNat_add _ _
    exact ⟨_, _, hsum, signOf_ccOf _, exec_of_completes (.add hv)⟩
  · rw [faultTaken_eq_raise]
    exact exec_of_faults (.addBounds hnone)

/-- Settles O29: the difference of two words is the wrapped difference of the numbers they stand for. -/
theorem subWritesTheWrappedDifference : Obligations.SubWritesTheWrappedDifference := by
  intro rd src s
  refine ⟨fun v hv => ?_, fun hnone => ?_⟩
  · exact ⟨_, _, toNat_sub_emod (getReg rd s) v, signOf_ccOf _, exec_of_completes (.sub hv)⟩
  · rw [faultTaken_eq_raise]
    exact exec_of_faults (.subBounds hnone)

/-! ### The condition code -/

section ConditionCode

variable {i : Instr} {s t u : State}

/-- An instruction that faults leaves cc as it was (42_arithmetic.md R105). -/
theorem Faults.cc_eq {k : FaultKind} (h : Faults i s k u) : u.cc = s.cc := by
  obtain rfl | ⟨p, rfl⟩ := h.same_or_moved_pointer
  · rfl
  · exact setReg_cc s _ p

/-- Of the instructions that complete, only LOAD, ADD and SUB write cc (42_arithmetic.md R105). -/
theorem Completes.cc_eq (h : Completes i s t)
    (hi : ∀ rd src, i ≠ .load rd src ∧ i ≠ .add rd src ∧ i ≠ .sub rd src) : t.cc = s.cc := by
  cases h with
  | load => exact absurd rfl (hi _ _).1
  | add => exact absurd rfl (hi _ _).2.1
  | sub => exact absurd rfl (hi _ _).2.2
  | _ => rfl

/-- The result in the destination and the class in cc are the same word's. -/
theorem signOf_written_result (rd : Reg) (r : Word) (s : State) :
    SignOf (getReg rd (updateCc r (setReg rd r s))) (updateCc r (setReg rd r s)).cc := by
  rw [getReg_updateCc, getReg_setReg_same, updateCc_cc]
  exact signOf_ccOf r

end ConditionCode

/-- Settles O42: LOAD, ADD and SUB classify the word they write, and what faults or is another instruction
does not reach the update of cc. -/
theorem ccIsTheSignOfTheResult : Obligations.CcIsTheSignOfTheResult := by
  intro i s t hs h
  refine ⟨fun rd src hi ht => ?_, fun hkeep => ?_⟩
  · obtain ⟨r, rfl⟩ | rfl := exec_registerResult_cases hi h
    · exact ⟨signOf_written_result rd r s, ccOf_ne_undefined r⟩
    · exact absurd (raise_run s _) ht
  · obtain hc | ⟨k, u, hf, rfl⟩ := exec_next_iff.1 h
    · obtain ht | hother := hkeep
      · exact absurd ht (hc.not_faulted hs)
      · exact hc.cc_eq hother
    · rw [raise_cc, hf.cc_eq]

end Sys2Proof.Safety

/-! PROOFS. BRANCH, CALL and RET, and the table of conditions (43_control_transfer.md). -/

namespace Sys2Proof.Safety

open Sys2Proof.Machine

/-! ### CALL, then RET -/

section CallThenRet

variable {s u : State}

/-- A pointer whose decrement is in the stack region is not 0, from which the decrement wraps to the last address
and so past `datasize`. -/
theorem dataend_le_of_pred_inStack {q : Word} (h : InStack (q - 1) s) : s.dataend ≤ q := by
  obtain ⟨hlo, hhi⟩ := h
  bv_omega

/-- A word stored at the decremented pointer can be popped again, provided the pointer before was below
`datasize` (44_stack.md R136, D8). -/
theorem canPop_of_pushed (hin : InStack (getReg Config.sp s - 1) s) (hsp : getReg Config.sp s < s.datasize)
    (hend : u.dataend = s.dataend) (hsize : u.datasize = s.datasize)
    (hptr : getReg Config.sp u = getReg Config.sp s - 1) : CanPop u := by
  have hlo := dataend_le_of_pred_inStack hin
  obtain ⟨-, hread⟩ := hin
  rw [CanPop, InStack, hptr, BitVec.sub_add_cancel, hend, hsize]
  exact ⟨⟨hlo, hsp⟩, hread⟩

end CallThenRet

/-- Settles O52: the CALL leaves its return address at the decremented pointer, which RET can pop. -/
theorem callThenRetResumes : Obligations.CallThenRetResumes := by
  intro c m s t u _ hc hcall ht hsp hend hsize hptr hword
  have hcall := completes_of_not_faulted hcall (by simp [ht])
  obtain ⟨htptr, hin⟩ := hcall.pointer_adjusted (if_pos hc)
  have hret : Completes .ret u _ := .ret (canPop_of_pushed hin hsp hend hsize (hptr.trans htptr))
  refine ⟨_, exec_of_completes hret, hret.run_eq (by simp), ?_, ?_⟩
  · rw [hret.ret_pc, hptr, hword, hcall.call_pushes_pc hc]
  · rw [getReg_setPc, getReg_setReg_same, hptr, htptr, BitVec.sub_add_cancel]

/-! ### The condition table -/

/-- Settles O44: `condHolds` is the table, whose missing row is the fault. -/
theorem conditionsFollowTheTable : Obligations.ConditionsFollowTheTable := by
  intro c s
  refine ⟨fun b hb => ?_, fun hnone => ?_⟩
  · rw [condHolds_eq_table, hb, Option.elim_some]
  · rw [condHolds_eq_table, hnone, Option.elim_none, faultTaken_eq_raise]

/-! ### BRANCH, CALL and RET alone -/

/-- The bounds that RET checks, listed one after the other, are `CanPop` (44_stack.md R132). -/
theorem canPop_iff (s : State) :
    CanPop s ↔ s.dataend ≤ getReg Config.sp s + 1 ∧ getReg Config.sp s + 1 < s.datasize ∧
      getReg Config.sp s < s.datasize :=
  and_assoc

/-- Settles O30, one clause for each way a BRANCH can end. -/
theorem branchSetsPcIfTheConditionHolds : Obligations.BranchSetsPcIfTheConditionHolds := by
  intro c s
  refine ⟨fun m htrue => ?_, fun m hfalse => ?_, fun m hnone => ?_, fun n => ?_⟩
  · exact exec_of_completes (.branchTaken htrue)
  · exact exec_of_completes (.branchPassed hfalse)
  · exact exec_of_faults (.branchCondition hnone)
  · exact exec_of_faults .branchImmediate

/-- Settles O31, one clause for each way a CALL can end. -/
theorem callPushesPcAndJumps : Obligations.CallPushesPcAndJumps := by
  rintro c s _ rfl
  refine ⟨fun m htrue hin => ?_, fun m htrue hout => ?_, fun m hfalse => ?_, fun m hnone => ?_, fun n => ?_⟩
  · refine ⟨_, exec_of_completes (.callTaken htrue hin), rfl, ?_, fun b hb => ?_⟩
    · rw [memRead_setPc, memRead_memWrite_same]
    · rw [memRead_setPc, memRead_memWrite_other _ _ hb, memRead_setReg]
  · exact exec_of_faults (.callStack htrue hout)
  · exact exec_of_completes (.callPassed hfalse)
  · exact exec_of_faults (.callCondition hnone)
  · exact exec_of_faults .callImmediate

/-- Settles O32: RET completes where it can pop, and faults with the incremented pointer where it cannot. -/
theorem retPopsPc : Obligations.RetPopsPc := by
  rintro s _ rfl
  rw [← canPop_iff]
  exact ⟨fun hpop => exec_of_completes (.ret hpop), fun hnot => exec_of_faults (.retStack hnot)⟩

end Sys2Proof.Safety

/-! PROOFS. PUSH and POP, the frames of the stack instructions, and what the stack holds (44_stack.md). -/

namespace Sys2Proof.Safety

open Sys2Proof.Machine

/-! ### PUSH and POP alone -/

/-- Settles O33, one clause for each way a PUSH can end. -/
theorem pushStoresItsOperand : Obligations.PushStoresItsOperand := by
  rintro src s _ rfl
  refine ⟨fun v hv hin => ?_, fun v hv hout => ?_, fun hnone => ?_⟩
  · refine ⟨_, exec_of_completes (.push hv hin), rfl, memRead_memWrite_same _ _ _, fun b hb => ?_⟩
    rw [memRead_memWrite_other _ _ hb, memRead_setReg]
  · exact exec_of_faults (.pushStack hv hout)
  · exact exec_of_faults (.pushBounds hnone)

/-- Settles O34, one clause for each way a POP can end. -/
theorem popStoresTheStackTop : Obligations.PopStoresTheStackTop := by
  rintro s _ rfl
  rw [← canPop_iff]
  refine ⟨fun m hin hpop => ?_, fun m hin hnot => ?_, fun m hout => ?_, fun n => ?_⟩
  · refine ⟨_, exec_of_completes (.pop hin hpop), rfl, memRead_memWrite_same _ _ _, fun b hb => ?_⟩
    rw [memRead_memWrite_other _ _ hb, memRead_setReg]
  · exact exec_of_faults (.popStack hin hnot)
  · exact exec_of_faults (.popBounds hout)
  · exact exec_of_faults .popImmediate

/-! ### What an instruction leaves unchanged -/

/-- The one data word that an instruction may change, namely when it completes, `none` where it stores nothing
(20_memory.md R34). -/
def storeAddress (i : Instr) (s : State) : Option Word :=
  match i with
  | .store _ (.mem m) | .pop (.mem m) => some (effectiveAddress m s)
  | .push _ => some (getReg Config.sp s - 1)
  | .call c (.mem _) => if conditionTable c s.cc = some true then some (getReg Config.sp s - 1) else none
  | _ => none

section Frame

variable {i : Instr} {s t u : State} {k : FaultKind} {r : Reg} {b : Word}

theorem Faults.getReg_other (h : Faults i s k u) (hr : r ≠ Config.sp) : getReg r u = getReg r s := by
  obtain rfl | ⟨p, rfl⟩ := h.same_or_moved_pointer
  · rfl
  · exact getReg_setReg_other s p hr

/-- An instruction that faults stores nothing (60_exceptions.md R162). -/
theorem Faults.memRead_eq (h : Faults i s k u) (b : Word) : memRead b u = memRead b s := by
  obtain rfl | ⟨p, rfl⟩ := h.same_or_moved_pointer
  · rfl
  · exact memRead_setReg s b _ p

/-- Only LOAD, ADD and SUB write a register other than the stack pointer (10_state.md R11). -/
theorem Completes.getReg_other (h : Completes i s t)
    (hi : ∀ rd src, i ≠ .load rd src ∧ i ≠ .add rd src ∧ i ≠ .sub rd src) (hr : r ≠ Config.sp) :
    getReg r t = getReg r s := by
  cases h with
  | load => exact absurd rfl (hi _ _).1
  | add => exact absurd rfl (hi _ _).2.1
  | sub => exact absurd rfl (hi _ _).2.2
  | callTaken | ret | push | pop => exact getReg_setReg_other s _ hr
  | _ => rfl

/-- An instruction that completes stores to its one data word, or to none. -/
theorem Completes.memRead_eq (h : Completes i s t) (hb : storeAddress i s ≠ some b) :
    memRead b t = memRead b s := by
  cases h with
  | store | push | pop => exact memRead_memWrite_other _ _ fun he => hb (congrArg some he.symm)
  | callTaken hc =>
    have hstore : b ≠ getReg Config.sp s - 1 := fun he => hb (by rw [storeAddress, if_pos hc, he])
    exact memRead_memWrite_other _ _ hstore
  | _ => rfl

theorem exec_getReg_other (h : exec i s = .next t)
    (hi : ∀ rd src, i ≠ .load rd src ∧ i ≠ .add rd src ∧ i ≠ .sub rd src) (hr : r ≠ Config.sp) :
    getReg r t = getReg r s := by
  obtain hc | ⟨k, u, hf, rfl⟩ := exec_next_iff.1 h
  · exact hc.getReg_other hi hr
  · exact hf.getReg_other hr

theorem exec_cc_eq (h : exec i s = .next t)
    (hi : ∀ rd src, i ≠ .load rd src ∧ i ≠ .add rd src ∧ i ≠ .sub rd src) : t.cc = s.cc := by
  obtain hc | ⟨k, u, hf, rfl⟩ := exec_next_iff.1 h
  · exact hc.cc_eq hi
  · exact hf.cc_eq

theorem exec_memRead_eq (h : exec i s = .next t) (hb : storeAddress i s ≠ some b) :
    memRead b t = memRead b s := by
  obtain hc | ⟨k, u, hf, rfl⟩ := exec_next_iff.1 h
  · exact hc.memRead_eq hb
  · exact hf.memRead_eq b

/-- A CALL that is not taken, or is in immediate mode, does nothing or takes a fault in the state before
(43_control_transfer.md R117, 40_step_and_addressing.md R81). -/
theorem exec_call_not_taken {c : Cond} {o : Operand} (h : exec (.call c o) s = .next t)
    (hnot : conditionTable c s.cc ≠ some true ∨ ∃ n, o = .imm n) : t = s ∨ ∃ k, t = raise k s := by
  obtain hc | ⟨k, u, hf, rfl⟩ := exec_next_iff.1 h
  · cases hc with
    | callTaken hc => simp [hc] at hnot
    | callPassed => exact .inl rfl
  · cases hf with
    | callStack hc => simp [hc] at hnot
    | callImmediate | callCondition => exact .inr ⟨_, rfl⟩

end Frame

/-- Settles O48: PUSH and a taken CALL store at the decremented pointer, and a CALL that is not taken leaves at
most a fault record. -/
theorem pushAndCallFrame : Obligations.PushAndCallFrame := by
  intro i s t hi h
  have hresult : ∀ rd src, i ≠ .load rd src ∧ i ≠ .add rd src ∧ i ≠ .sub rd src := by
    obtain ⟨src, rfl⟩ | ⟨c, o, rfl⟩ := hi <;> simp
  have hhalt : i ≠ .halt := by
    obtain ⟨src, rfl⟩ | ⟨c, o, rfl⟩ := hi <;> simp
  have hstore : ∀ e, storeAddress i s = some e → e = getReg Config.sp s - 1 := by
    obtain ⟨src, rfl⟩ | ⟨c, n | m, rfl⟩ := hi <;> simp [storeAddress, eq_comm]
  refine ⟨fun r hr => exec_getReg_other h hresult hr, exec_cc_eq h hresult, fun b hb => ?_, fun src hpush => ?_,
    fun c o hcall hnot => ?_, exec_sameSurroundings h, exec_sameRunOrFault h hhalt⟩
  · exact exec_memRead_eq h fun he => hb (hstore b he)
  · exact exec_pc_sequential h (by simp [hpush]) (by simp [hpush])
  · rw [hcall] at h
    obtain rfl | ⟨k, rfl⟩ := exec_call_not_taken h hnot <;> exact ⟨rfl, rfl, fun _ => rfl⟩

/-- Settles O49: POP stores to its effective address alone, and in immediate mode its fault is all it does. -/
theorem popFrame : Obligations.PopFrame := by
  intro dst s t h
  refine ⟨fun r hr => exec_getReg_other h (by simp) hr, exec_cc_eq h (by simp),
    exec_pc_sequential h (by simp) (by simp), fun m hm b hb => ?_, fun n hn => ?_,
    exec_sameSurroundings h, exec_sameRunOrFault h (by simp)⟩
  · rw [hm] at h
    exact exec_memRead_eq h fun he => hb (Option.some.inj he).symm
  · rw [hn, exec_of_faults .popImmediate] at h
    obtain rfl := Host.Outcome.next.inj h
    exact ⟨rfl, fun _ => rfl⟩

/-! ### The static region -/

/-- PUSH, CALL and RET store in the stack region or not at all (44_stack.md R131). -/
theorem Completes.dataend_le_storeAddress {i : Instr} {s t : State} {e : Word} (h : Completes i s t)
    (hi : (∃ src, i = .push src) ∨ (∃ c o, i = .call c o) ∨ i = .ret) (he : storeAddress i s = some e) :
    s.dataend ≤ e := by
  obtain ⟨src, rfl⟩ | ⟨c, o, rfl⟩ | rfl := hi
  · cases h with
    | push _ hin => exact Option.some.inj he ▸ hin.1
  · cases h with
    | callTaken hc hin =>
      rw [storeAddress, if_pos hc] at he
      exact Option.some.inj he ▸ hin.1
    | callPassed hc => simp [storeAddress, hc] at he
  · simp [storeAddress] at he

/-- Settles O54: the word stored to is in the stack region, so it is none of the static words. -/
theorem pushesStayOutOfTheStaticRegion : Obligations.PushesStayOutOfTheStaticRegion := by
  intro i s t b hi h hb
  obtain hc | ⟨k, u, hf, rfl⟩ := exec_next_iff.1 h
  · exact hc.memRead_eq fun he => BitVec.not_le.2 hb (hc.dataend_le_storeAddress hi he)
  · exact hf.memRead_eq b

/-! ### PUSH, then POP -/

section PushThenPop

variable {src : Operand} {s t u : State}

/-- A PUSH that completes leaves its operand at the word the stack pointer addresses (44_stack.md R131). -/
theorem Completes.push_stores_value {v : Word} (h : Completes (.push src) s t)
    (hv : operandValue src s = some v) : memRead (getReg Config.sp t) t = v := by
  cases h with
  | push hv' =>
    obtain rfl := Option.some.inj (hv.symm.trans hv')
    simp

/-- The POP of a word that can be popped brings it to the destination (44_stack.md R134). -/
theorem exec_pop_of_canPop {m : Address} (hm : effectiveAddress m s < s.datasize) (hpop : CanPop s) :
    ∃ u, exec (.pop (.mem m)) s = .next u ∧ u.run = s.run ∧
      memRead (effectiveAddress m s) u = memRead (getReg Config.sp s) s ∧
      getReg Config.sp u = getReg Config.sp s + 1 :=
  ⟨_, exec_of_completes (.pop hm hpop), rfl, memRead_memWrite_same _ _ _, by simp⟩

/-- From a pointer equal to `datasize` a word can be pushed where a stack region exists (44_stack.md R136). -/
theorem inStack_of_pointer_at_end (hsp : getReg Config.sp s = s.datasize) (hregion : s.dataend < s.datasize) :
    InStack (getReg Config.sp s - 1) s := by
  rw [InStack, hsp]
  constructor <;> bv_omega

/-- A word pushed from a pointer equal to `datasize` cannot be popped: the pointer would return to `datasize`,
which is outside the stack region (44_stack.md R136, D8). -/
theorem not_canPop_of_pushed_at_end (hsp : getReg Config.sp s = s.datasize) (hsize : u.datasize = s.datasize)
    (hptr : getReg Config.sp u = getReg Config.sp s - 1) : ¬ CanPop u := by
  rintro ⟨⟨-, hlt⟩, -⟩
  rw [hptr, BitVec.sub_add_cancel, hsp, hsize] at hlt
  exact BitVec.lt_irrefl _ hlt

end PushThenPop

/-- Settles O51: the POP finds the pushed word where the pointer was below `datasize`, and at `datasize` the
pointer it returns to is out of bounds; an instruction that completes has left the pointer where it was checked,
and one that faults has stored nothing. -/
theorem stackInstructionsPairUp : Obligations.StackInstructionsPairUp := by
  refine ⟨fun src v m pc' s t _ hv h ht hm => ?_, fun src v s hs hv hsp hregion => ?_, fun i s t hs hadj h => ?_⟩
  · have hpush := completes_of_not_faulted h (by simp [ht])
    obtain ⟨hptr, hin⟩ := hpush.pointer_adjusted rfl
    obtain ⟨-, hsize, hend, -⟩ := exec_sameSurroundings h
    have hdest : effectiveAddress m (setPc pc' t) < (setPc pc' t).datasize := by
      rwa [effectiveAddress_setPc, setPc_datasize, hsize]
    refine ⟨fun hbelow => ?_, fun hat => ?_⟩
    · have hpop : CanPop (setPc pc' t) := canPop_of_pushed hin hbelow hend hsize hptr
      obtain ⟨u, hu, hrun, hword, hsp⟩ := exec_pop_of_canPop hdest hpop
      refine ⟨u, hu, hrun.trans ht, ?_, ?_⟩
      · rw [← effectiveAddress_setPc m pc', hword]
        exact hpush.push_stores_value hv
      · rw [hsp, getReg_setPc, hptr, BitVec.sub_add_cancel]
    · have hnot : ¬ CanPop (setPc pc' t) := not_canPop_of_pushed_at_end hat hsize hptr
      exact ⟨_, exec_of_faults (.popStack hdest hnot), raise_faultKind _ _⟩
  · have hpush := Completes.push hv (inStack_of_pointer_at_end hsp hregion)
    refine ⟨_, exec_of_completes hpush, hs, ?_⟩
    rw [← hsp]
    exact memRead_memWrite_same _ _ _
  · refine ⟨fun ht => ?_, fun ht b => ?_⟩
    · obtain ⟨p, hp⟩ := Option.isSome_iff_exists.1 hadj
      obtain ⟨hptr, hin⟩ := (completes_of_not_faulted h ht).pointer_adjusted hp
      obtain ⟨-, hsize, hend, -⟩ := exec_sameSurroundings h
      rwa [StackPointerInBounds, hptr, hsize, hend]
    · obtain ⟨k, u, hf, rfl⟩ := faults_of_faulted h (by simp [hs]) ht
      exact hf.memRead_eq b

/-! ### The capacity of the stack -/

section ExecAll

variable {i : Instr} {is : List Instr} {s t u : State}

theorem execAll_cons (h : exec i s = .next u) (hu : u.run = .running) :
    execAll (i :: is) s = execAll is u := by
  simp only [execAll, h, if_pos hu]

/-- A sequence that leaves the core RUNNING has executed each of its instructions. -/
theorem exists_of_execAll_cons (h : execAll (i :: is) s = .next t) (ht : t.run = .running) :
    ∃ u, exec i s = .next u ∧ u.run = .running ∧ execAll is u = .next t := by
  obtain ⟨u, hu⟩ := exec_answers_next i s
  by_cases hrun : u.run = .running
  · exact ⟨u, hu, hrun, execAll_cons hu hrun ▸ h⟩
  · simp only [execAll, hu, if_neg hrun] at h
    exact absurd (Host.Outcome.next.inj h ▸ ht) hrun

end ExecAll

section Capacity

variable {s t u : State}

/-- Below a pointer whose decrement is in the stack region there is no wrap. -/
theorem toNat_pred_of_inStack {q : Word} (h : InStack (q - 1) s) : (q - 1).toNat + 1 = q.toNat := by
  obtain ⟨-, hhi⟩ := h
  bv_omega

/-- A PUSH that completes takes the pointer down by one, no lower than `dataend` (44_stack.md R131). -/
theorem Completes.push_pointer {src : Operand} (h : Completes (.push src) s t) :
    (getReg Config.sp t).toNat + 1 = (getReg Config.sp s).toNat ∧ InStack (getReg Config.sp t) s := by
  obtain ⟨hptr, hin⟩ := h.pointer_adjusted rfl
  rw [hptr]
  exact ⟨toNat_pred_of_inStack hin, hin⟩

/-- PUSHes that complete take the pointer down by as many words, no lower than `dataend`. -/
theorem execAll_push_pointer (srcs : List Operand) (hlow : s.dataend ≤ getReg Config.sp s)
    (h : execAll (srcs.map Instr.push) s = .next t) (ht : t.run = .running) :
    (getReg Config.sp t).toNat + srcs.length = (getReg Config.sp s).toNat ∧
      s.dataend ≤ getReg Config.sp t := by
  induction srcs generalizing s with
  | nil =>
    obtain rfl := Host.Outcome.next.inj h
    exact ⟨rfl, hlow⟩
  | cons src srcs ih =>
    obtain ⟨u, hu, hurun, hrest⟩ := exists_of_execAll_cons h ht
    obtain ⟨hptr, hin, -⟩ := (completes_of_not_faulted hu (by simp [hurun])).push_pointer
    obtain ⟨-, -, hend, -⟩ := exec_sameSurroundings hu
    obtain ⟨hlen, hle⟩ := ih (hend ▸ hin) hrest
    exact ⟨by simp only [List.length_cons]; omega, hend ▸ hle⟩

/-- The state `t` is `s` with the immediates `ns` pushed, the first one uppermost, and the words from the
pointer on as they were. -/
structure Pushed (ns : List (BitVec 20)) (s t : State) : Prop where
  run : t.run = .running
  pointer : (getReg Config.sp t).toNat + ns.length = (getReg Config.sp s).toNat
  values : ∀ k n, ns[k]? = some n →
    memRead (BitVec.ofNat 32 ((getReg Config.sp s).toNat - 1 - k)) t = n.signExtend 32
  above : ∀ b, getReg Config.sp s ≤ b → memRead b t = memRead b s

theorem Pushed.nil (hs : s.run = .running) : Pushed [] s s where
  run := hs
  pointer := rfl
  values := by simp
  above := fun _ _ => rfl

/-- One immediate more at the front: it is stored first, and the later ones lie below it. -/
theorem Pushed.cons {n : BitVec 20} {ns : List (BitVec 20)} (h : Completes (.push (.imm n)) s u)
    (hrest : Pushed ns u t) : Pushed (n :: ns) s t := by
  obtain ⟨hptr, -⟩ := h.push_pointer
  refine ⟨hrest.run, ?_, fun k n' hk => ?_, fun b hb => ?_⟩
  · rw [List.length_cons, ← hptr, ← hrest.pointer]
    omega
  · rw [← hptr, Nat.add_sub_cancel]
    cases k with
    | zero =>
      obtain rfl : n = n' := by simpa using hk
      rw [Nat.sub_zero, BitVec.ofNat_toNat, BitVec.setWidth_eq, hrest.above _ (BitVec.le_refl _)]
      exact h.push_stores_value rfl
    | succ k =>
      rw [Nat.add_comm k 1, ← Nat.sub_sub]
      exact hrest.values k n' (by simpa using hk)
  · have hne : b ≠ getReg Config.sp s - 1 := by bv_omega
    rw [hrest.above b (by bv_omega)]
    exact h.memRead_eq fun he => hne (Option.some.inj he).symm

/-- As many immediates as there are words of the stack region below the pointer can be pushed. -/
theorem execAll_push_immediates (ns : List (BitVec 20)) (hs : s.run = .running)
    (hroom : s.dataend.toNat + ns.length ≤ (getReg Config.sp s).toNat)
    (hsp : getReg Config.sp s ≤ s.datasize) :
    ∃ t, execAll (ns.map fun n => Instr.push (.imm n)) s = .next t ∧ Pushed ns s t := by
  induction ns generalizing s with
  | nil => exact ⟨s, rfl, .nil hs⟩
  | cons n ns ih =>
    rw [List.length_cons] at hroom
    have hin : InStack (getReg Config.sp s - 1) s := by
      constructor <;> bv_omega
    have hpush : Completes (.push (.imm n)) s _ := .push rfl hin
    obtain ⟨hptr, -, hhi⟩ := hpush.push_pointer
    have hrun := hpush.run_eq (by simp)
    obtain ⟨-, hsize, hend, -⟩ := exec_sameSurroundings (exec_of_completes hpush)
    obtain ⟨t, ht, hpushed⟩ := ih (hrun.trans hs) (by rw [hend]; omega) (hsize ▸ BitVec.le_of_lt hhi)
    exact ⟨t, (execAll_cons (exec_of_completes hpush) (hrun.trans hs)).trans ht, .cons hpush hpushed⟩

end Capacity

/-- Settles O53: both clauses by induction on the sequence, every PUSH taking one word of the stack region. -/
theorem stackHoldsItsCapacity : Obligations.StackHoldsItsCapacity := by
  refine ⟨fun srcs s t _ hsp hne h ht => ?_, fun ns s hs hsp hroom => ?_⟩
  · obtain ⟨src, srcs, rfl⟩ := List.exists_cons_of_ne_nil hne
    obtain ⟨u, hu, hurun, hrest⟩ := exists_of_execAll_cons h ht
    obtain ⟨hptr, hlo, hhi⟩ := (completes_of_not_faulted hu (by simp [hurun])).push_pointer
    obtain ⟨-, -, hend, -⟩ := exec_sameSurroundings hu
    obtain ⟨hlen, hle⟩ := execAll_push_pointer srcs (hend ▸ hlo) hrest ht
    rw [hend] at hle
    rw [List.length_cons]
    bv_omega
  · have hsize : (getReg Config.sp s).toNat + 1 = s.datasize.toNat := by bv_omega
    obtain ⟨t, ht, hpushed⟩ := execAll_push_immediates ns hs (by omega) (by bv_omega)
    have hptr := hpushed.pointer
    refine ⟨t, ht, hpushed.run, by omega, fun k n hk => ?_⟩
    have hslot : s.datasize.toNat - 2 - k = (getReg Config.sp s).toNat - 1 - k := by omega
    rw [hslot]
    exact hpushed.values k n hk

end Sys2Proof.Safety

/-! PROOFS. NOP, ILLOP, HALT and the unknown opcodes, and the frame of what stores nothing (45_system.md). -/

namespace Sys2Proof.Safety

open Sys2Proof.Machine

/-! ### NOP, HALT, ILLOP and the unknown opcodes alone -/

/-- Settles O22: the one way a NOP can end is in the state it began in. -/
theorem nopDoesNothing : Obligations.NopDoesNothing :=
  fun _ => exec_of_completes .nop

/-- Settles O23: HALT always completes, and stopping the run is all it does. -/
theorem haltEndsTheRun : Obligations.HaltEndsTheRun :=
  fun _ => exec_of_completes .halt

/-- Settles O24: the fault is all that ILLOP does. -/
theorem illopTakesAFault : Obligations.IllopTakesAFault :=
  fun _ => exec_of_faults .illop

/-- Settles O25, one case for each of the three rows of unknown opcodes. -/
theorem unknownOpcodesTakeAFault : Obligations.UnknownOpcodesTakeAFault := by
  rintro i op s (rfl | rfl | rfl)
  · exact exec_of_faults .unknown12to15
  · exact exec_of_faults .unknown16to31
  · exact exec_of_faults .unknown32to63

/-! ### The frame of what stores nothing -/

section NothingStored

variable {i : Instr} {s t u : State}

/-- A fault is taken in the state before, unless the instruction had adjusted the stack pointer
(60_exceptions.md R162, D16). -/
theorem Faults.eq_of_pointer_kept {k : FaultKind} (h : Faults i s k u) (hp : adjustedPointer i s = none) :
    u = s := by
  cases h with
  | callStack hc => simp [adjustedPointer, hc] at hp
  | retStack | pushStack | popStack => simp [adjustedPointer] at hp
  | _ => rfl

/-- The register file is written with a result or with an adjusted stack pointer, and with nothing else
(10_state.md R11). -/
theorem Completes.regs_eq (h : Completes i s t)
    (hi : ∀ rd src, i ≠ .load rd src ∧ i ≠ .add rd src ∧ i ≠ .sub rd src) (hp : adjustedPointer i s = none) :
    t.regs = s.regs := by
  cases h with
  | load => exact absurd rfl (hi _ _).1
  | add => exact absurd rfl (hi _ _).2.1
  | sub => exact absurd rfl (hi _ _).2.2
  | callTaken hc => simp [adjustedPointer, hc] at hp
  | ret | push | pop => simp [adjustedPointer] at hp
  | _ => rfl

theorem exec_regs_eq (h : exec i s = .next t)
    (hi : ∀ rd src, i ≠ .load rd src ∧ i ≠ .add rd src ∧ i ≠ .sub rd src) (hp : adjustedPointer i s = none) :
    t.regs = s.regs := by
  obtain hc | ⟨k, u, hf, rfl⟩ := exec_next_iff.1 h
  · exact hc.regs_eq hi hp
  · rw [raise_regs, hf.eq_of_pointer_kept hp]

/-- The three rows of unknown opcodes (45_system.md R143). -/
theorem exists_of_unknownOpcode (h : unknownOpcode i = true) :
    ∃ op, i = .unknown12to15 op ∨ i = .unknown16to31 op ∨ i = .unknown32to63 op := by
  cases i with
  | unknown12to15 op => exact ⟨op, .inl rfl⟩
  | unknown16to31 op => exact ⟨op, .inr (.inl rfl)⟩
  | unknown32to63 op => exact ⟨op, .inr (.inr rfl)⟩
  | _ => cases h

/-- The instructions of the frame have no result and no data word to store to, and only RET adjusts the stack
pointer. -/
theorem noResult_noStore_pointerKept (s : State)
    (hi : i = .nop ∨ i = .illop ∨ i = .halt ∨ unknownOpcode i = true ∨ (∃ c o, i = .branch c o) ∨ i = .ret) :
    (∀ rd src, i ≠ .load rd src ∧ i ≠ .add rd src ∧ i ≠ .sub rd src) ∧ storeAddress i s = none ∧
      (i ≠ .ret → adjustedPointer i s = none) := by
  obtain rfl | rfl | rfl | hunknown | ⟨c, o, rfl⟩ | rfl := hi
  case inr.inr.inr.inl =>
    obtain ⟨op, rfl | rfl | rfl⟩ := exists_of_unknownOpcode hunknown <;> exact ⟨by simp, rfl, fun _ => rfl⟩
  case inr.inr.inr.inr.inr => exact ⟨by simp, rfl, fun hret => absurd rfl hret⟩
  all_goals exact ⟨by simp, rfl, fun _ => rfl⟩

end NothingStored

/-- Settles O50: with no result and no data word to write, only RET's stack pointer and HALT's run state are left
to change, besides pc and the fault record. -/
theorem nothingStoredFrame : Obligations.NothingStoredFrame := by
  intro i s t hi h
  obtain ⟨hresult, hstore, hpointer⟩ := noResult_noStore_pointerKept s hi
  refine ⟨fun r hr => ?_, exec_cc_eq h hresult, fun b => exec_memRead_eq h (by simp [hstore]),
    exec_sameSurroundings h, exec_sameRunOrFault h, fun hhalt => ?_⟩
  · obtain hsp | hret := hr
    · exact exec_getReg_other h hresult hsp
    · rw [getReg, getReg, exec_regs_eq h hresult (hpointer hret)]
  · rw [hhalt, haltEndsTheRun] at h
    obtain rfl := Host.Outcome.next.inj h
    exact ⟨rfl, rfl, rfl⟩

end Sys2Proof.Safety

/-! PROOFS. Faults: which one is taken, and what it leaves (60_exceptions.md). -/

namespace Sys2Proof.Safety

open Sys2Proof.Machine

/-! ### The conditions of faults -/

section Conditions

variable {i : Instr} {s : State}

/-- The data-bounds condition of R155 holds exactly where the operand has no value (R79). -/
theorem dataOutOfBounds_eq_isNone {o : Operand} (hi : dataOperand i = some o) :
    dataOutOfBounds i s = (operandValue o s).isNone := by
  cases o with
  | imm n => simp [dataOutOfBounds, hi, operandValue]
  | mem m =>
    obtain hm | hm := word_lt_or_ge (effectiveAddress m s) s.datasize <;>
      simp [dataOutOfBounds, hi, operandValue, hm]

theorem dataOutOfBounds_of_value {o : Operand} {v : Word} (hi : dataOperand i = some o)
    (hv : operandValue o s = some v) : dataOutOfBounds i s = false := by
  rw [dataOutOfBounds_eq_isNone hi, hv, Option.isNone_some]

theorem dataOutOfBounds_of_no_value {o : Operand} (hi : dataOperand i = some o)
    (hv : operandValue o s = none) : dataOutOfBounds i s = true := by
  rw [dataOutOfBounds_eq_isNone hi, hv, Option.isNone_none]

theorem operandValue_mem_in {m : Address} (h : effectiveAddress m s < s.datasize) :
    operandValue (.mem m) s = some (memRead (effectiveAddress m s) s) :=
  if_pos h

theorem operandValue_mem_out {m : Address} (h : s.datasize ≤ effectiveAddress m s) :
    operandValue (.mem m) s = none :=
  if_neg (BitVec.not_lt.2 h)

/-- A selector is invalid exactly where it has no row in the table of R115, whatever cc is. -/
theorem invalidSelector_eq_isNone {c : Cond} {o : Operand} (cc : CC) (hi : i = .branch c o ∨ i = .call c o) :
    invalidSelector i = (conditionTable c cc).isNone := by
  obtain rfl | rfl := hi <;> cases c <;> rfl

theorem invalidSelector_of_row {c : Cond} {o : Operand} {cc : CC} {b : Bool}
    (hi : i = .branch c o ∨ i = .call c o) (hc : conditionTable c cc = some b) :
    invalidSelector i = false := by
  rw [invalidSelector_eq_isNone cc hi, hc, Option.isNone_some]

theorem invalidSelector_of_no_row {c : Cond} {o : Operand} {cc : CC}
    (hi : i = .branch c o ∨ i = .call c o) (hc : conditionTable c cc = none) :
    invalidSelector i = true := by
  rw [invalidSelector_eq_isNone cc hi, hc, Option.isNone_none]

theorem adjustedPointer_call_taken {c : Cond} {o : Operand} (hc : conditionTable c s.cc = some true) :
    adjustedPointer (.call c o) s = some (getReg Config.sp s - 1) :=
  if_pos hc

/-- PUSH and a taken CALL need the adjusted pointer in the stack region (60_exceptions.md R156). -/
theorem stackOutOfBounds_eq_false_iff_inStack {p : Word} (hp : adjustedPointer i s = some p)
    (hi : popsNoWord i s = false) : stackOutOfBounds i s = false ↔ InStack p s := by
  simp [stackOutOfBounds, hp, hi, InStack]

/-- RET and POP need besides a word to take, the guard of R132. -/
theorem stackOutOfBounds_eq_false_iff_canPop (hi : i = .ret ∨ ∃ o, i = .pop o) :
    stackOutOfBounds i s = false ↔ CanPop s := by
  obtain rfl | ⟨o, rfl⟩ := hi <;> simp [stackOutOfBounds, adjustedPointer, popsNoWord, CanPop, InStack]

theorem stackOutOfBounds_of_pointer_kept (hp : adjustedPointer i s = none) : stackOutOfBounds i s = false := by
  simp [stackOutOfBounds, hp]

end Conditions

/-! ### The first fault -/

section FirstFault

variable {i : Instr} {s t u : State} {k : FaultKind}

/-- An instruction whose opcode alone is a fault meets no other condition. -/
theorem no_condition_of_opcodeFault (hi : i = .illop ∨ unknownOpcode i = true) :
    forbiddenImmediate i = false ∧ invalidSelector i = false ∧ dataOutOfBounds i s = false ∧
      stackOutOfBounds i s = false := by
  obtain rfl | hunknown := hi
  · exact ⟨rfl, rfl, rfl, rfl⟩
  · obtain ⟨op, rfl | rfl | rfl⟩ := exists_of_unknownOpcode hunknown <;> exact ⟨rfl, rfl, rfl, rfl⟩

/-- In immediate mode there is no address to be out of bounds. -/
theorem dataOutOfBounds_of_forbiddenImmediate (hi : forbiddenImmediate i = true) :
    dataOutOfBounds i s = false := by
  cases i with
  | store _ o | pop o =>
    cases o with
    | imm n => rfl
    | mem m => cases hi
  | branch | call => rfl
  | _ => cases hi

/-- BRANCH and CALL have no data operand, and with an invalid selector no stack pointer to adjust. -/
theorem no_bounds_of_invalidSelector (hi : invalidSelector i = true) :
    dataOutOfBounds i s = false ∧ stackOutOfBounds i s = false := by
  cases i with
  | branch c o => exact ⟨rfl, rfl⟩
  | call c o =>
    cases c with
    | invalid sel => exact ⟨rfl, rfl⟩
    | _ => cases hi
  | _ => cases hi

theorem firstFault_illegalInstruction_iff : firstFault i s = some .illegalInstruction ↔ i = .illop := by
  unfold firstFault
  grind

/-- Of the two conditions before it in the order, none can hold besides. -/
theorem firstFault_immediateForbidden_iff :
    firstFault i s = some .immediateForbidden ↔ forbiddenImmediate i = true := by
  have hop := no_condition_of_opcodeFault (i := i) (s := s)
  unfold firstFault
  grind

/-- Of the conditions before it in the order, only a forbidden immediate can hold besides (D9). -/
theorem firstFault_invalidCondition_iff :
    firstFault i s = some .invalidCondition ↔ invalidSelector i = true ∧ forbiddenImmediate i = false := by
  have hop := no_condition_of_opcodeFault (i := i) (s := s)
  unfold firstFault
  grind

/-- An access out of bounds excludes every condition before it in the order. -/
theorem firstFault_dataSegmentation_iff :
    firstFault i s = some .dataSegmentation ↔ dataOutOfBounds i s = true := by
  have hop := no_condition_of_opcodeFault (i := i) (s := s)
  have himm := dataOutOfBounds_of_forbiddenImmediate (i := i) (s := s)
  have hsel := no_bounds_of_invalidSelector (i := i) (s := s)
  unfold firstFault
  grind

/-- A stack instruction may have been stopped by a forbidden immediate or by its data operand; the other
conditions before it in the order are excluded. -/
theorem firstFault_stackSegmentation_iff :
    firstFault i s = some .stackSegmentation ↔
      forbiddenImmediate i = false ∧ dataOutOfBounds i s = false ∧ stackOutOfBounds i s = true := by
  have hop := no_condition_of_opcodeFault (i := i) (s := s)
  have hsel := no_bounds_of_invalidSelector (i := i) (s := s)
  unfold firstFault
  grind

theorem firstFault_eq_none_iff :
    firstFault i s = none ↔ i ≠ .illop ∧ unknownOpcode i = false ∧ forbiddenImmediate i = false ∧
      invalidSelector i = false ∧ dataOutOfBounds i s = false ∧ stackOutOfBounds i s = false := by
  unfold firstFault
  grind

/-- Where an instruction completes, no condition holds. -/
theorem Completes.firstFault_eq_none (h : Completes i s t) : firstFault i s = none := by
  rw [firstFault_eq_none_iff]
  cases h with
  | nop | halt => exact ⟨nofun, rfl, rfl, rfl, rfl, rfl⟩
  | load hv | add hv | sub hv => exact ⟨nofun, rfl, rfl, rfl, dataOutOfBounds_of_value rfl hv, rfl⟩
  | store he => exact ⟨nofun, rfl, rfl, rfl, dataOutOfBounds_of_value rfl (operandValue_mem_in he), rfl⟩
  | branchTaken hc | branchPassed hc =>
    exact ⟨nofun, rfl, rfl, invalidSelector_of_row (.inl rfl) hc, rfl, rfl⟩
  | callTaken hc hp =>
    exact ⟨nofun, rfl, rfl, invalidSelector_of_row (.inr rfl) hc, rfl,
      (stackOutOfBounds_eq_false_iff_inStack (adjustedPointer_call_taken hc) rfl).2 hp⟩
  | callPassed hc =>
    exact ⟨nofun, rfl, rfl, invalidSelector_of_row (.inr rfl) hc, rfl,
      stackOutOfBounds_of_pointer_kept (by simp [adjustedPointer, hc])⟩
  | ret hp => exact ⟨nofun, rfl, rfl, rfl, rfl, (stackOutOfBounds_eq_false_iff_canPop (.inl rfl)).2 hp⟩
  | push hv hp =>
    exact ⟨nofun, rfl, rfl, rfl, dataOutOfBounds_of_value rfl hv,
      (stackOutOfBounds_eq_false_iff_inStack rfl rfl).2 hp⟩
  | pop he hp =>
    exact ⟨nofun, rfl, rfl, rfl, dataOutOfBounds_of_value rfl (operandValue_mem_in he),
      (stackOutOfBounds_eq_false_iff_canPop (.inr ⟨_, rfl⟩)).2 hp⟩

/-- Where an instruction faults, the kind is that of the first condition that holds. -/
theorem Faults.firstFault_eq (h : Faults i s k u) : firstFault i s = some k := by
  cases h with
  | illop | unknown12to15 | unknown16to31 | unknown32to63 => rfl
  | storeImmediate | branchImmediate | callImmediate | popImmediate =>
    exact firstFault_immediateForbidden_iff.2 rfl
  | branchCondition hc =>
    exact firstFault_invalidCondition_iff.2 ⟨invalidSelector_of_no_row (.inl rfl) hc, rfl⟩
  | callCondition hc =>
    exact firstFault_invalidCondition_iff.2 ⟨invalidSelector_of_no_row (.inr rfl) hc, rfl⟩
  | loadBounds hv | addBounds hv | subBounds hv | pushBounds hv =>
    exact firstFault_dataSegmentation_iff.2 (dataOutOfBounds_of_no_value rfl hv)
  | storeBounds he | popBounds he =>
    exact firstFault_dataSegmentation_iff.2 (dataOutOfBounds_of_no_value rfl (operandValue_mem_out he))
  | callStack hc hp =>
    exact firstFault_stackSegmentation_iff.2 ⟨rfl, rfl,
      by rwa [← Bool.not_eq_false, stackOutOfBounds_eq_false_iff_inStack (adjustedPointer_call_taken hc) rfl]⟩
  | retStack hp =>
    exact firstFault_stackSegmentation_iff.2 ⟨rfl, rfl,
      by rwa [← Bool.not_eq_false, stackOutOfBounds_eq_false_iff_canPop (.inl rfl)]⟩
  | pushStack hv hp =>
    exact firstFault_stackSegmentation_iff.2 ⟨rfl, dataOutOfBounds_of_value rfl hv,
      by rwa [← Bool.not_eq_false, stackOutOfBounds_eq_false_iff_inStack rfl rfl]⟩
  | popStack he hp =>
    exact firstFault_stackSegmentation_iff.2 ⟨rfl, dataOutOfBounds_of_value rfl (operandValue_mem_in he),
      by rwa [← Bool.not_eq_false, stackOutOfBounds_eq_false_iff_canPop (.inr ⟨_, rfl⟩)]⟩

/-- The two texts of the fault conditions agree: an instruction records the first fault whose condition holds,
and none where none holds (60_exceptions.md R159). -/
theorem exec_faultKind (hs : s.faultKind = none) (h : exec i s = .next t) : t.faultKind = firstFault i s := by
  obtain hc | ⟨k, u, hf, rfl⟩ := exec_next_iff.1 h
  · obtain ⟨hkind, -⟩ := hc.record_eq
    rw [hkind, hs, hc.firstFault_eq_none]
  · rw [raise_faultKind, hf.firstFault_eq]

end FirstFault

/-! ### What a fault leaves -/

section PreciseState

variable {i : Instr} {s t u : State} {k : FaultKind}

theorem faults_of_faultKind (hs : s.faultKind = none) (h : exec i s = .next t) (ht : t.faultKind = some k) :
    ∃ u, Faults i s k u ∧ t = raise k u := by
  obtain hc | ⟨k', u, hf, rfl⟩ := exec_next_iff.1 h
  · obtain ⟨hkind, -⟩ := hc.record_eq
    rw [hkind, hs] at ht
    cases ht
  · obtain rfl : k' = k := Option.some.inj ht
    exact ⟨u, hf, rfl⟩

/-- Only the stack check comes after a change of state (60_exceptions.md R162). -/
theorem Faults.eq_of_ne_stackSegmentation (h : Faults i s k u) (hk : k ≠ .stackSegmentation) : u = s := by
  cases h with
  | callStack | retStack | pushStack | popStack => exact absurd rfl hk
  | _ => rfl

/-- The stack check comes after the adjustment of the pointer, which is kept (60_exceptions.md R162, D16). -/
theorem Faults.pointer_adjusted (h : Faults i s .stackSegmentation u) :
    ∃ p, adjustedPointer i s = some p ∧ u = setReg Config.sp p s := by
  cases h with
  | callStack hc => exact ⟨_, adjustedPointer_call_taken hc, rfl⟩
  | retStack | pushStack | popStack => exact ⟨_, rfl, rfl⟩

end PreciseState

/-- Settles O40: the fault is taken in the state before, or in that state with the adjusted pointer. -/
theorem faultKeepsThePreciseState : Obligations.FaultKeepsThePreciseState := by
  intro i s t k hs h ht
  obtain ⟨u, hf, rfl⟩ := faults_of_faultKind hs h ht
  refine ⟨fun hk => ?_, fun hk => ?_⟩
  · rw [hf.eq_of_ne_stackSegmentation hk, faultTaken_eq_raise]
  · obtain rfl := hk
    obtain ⟨p, hp, rfl⟩ := hf.pointer_adjusted
    exact ⟨p, hp, rfl⟩

/-- A fault that precedes the stack check is taken exactly where its condition `p` is the first that holds, and
is then all that happens. -/
theorem exec_faults_exactly {i : Instr} {s t : State} {k : FaultKind} {p : Prop} (hk : k ≠ .stackSegmentation) (hfirst : firstFault i s = some k ↔ p)
    (hs : s.faultKind = none) (h : exec i s = .next t) :
    (t.faultKind = some k ↔ p) ∧ (p → t = faultTaken k s) := by
  have hexact : t.faultKind = some k ↔ p := by rw [exec_faultKind hs h, hfirst]
  refine ⟨hexact, fun hp => ?_⟩
  obtain ⟨hstate, -⟩ := faultKeepsThePreciseState i s t k hs h (hexact.2 hp)
  exact hstate hk

/-! ### Each kind of fault exactly -/

/-- Settles O60: no other instruction's first fault is the illegal-instruction fault. -/
theorem illegalInstructionFaultsExactly : Obligations.IllegalInstructionFaultsExactly :=
  fun _ _ _ hs h => exec_faults_exactly (by decide) firstFault_illegalInstruction_iff hs h

/-- Settles O35: a forbidden immediate comes first wherever it occurs, and its check precedes every change. -/
theorem immediateForbiddenFaultsExactly : Obligations.ImmediateForbiddenFaultsExactly :=
  fun _ _ _ hs h => exec_faults_exactly (by decide) firstFault_immediateForbidden_iff hs h

/-- Settles O36: the selector is looked up after the check for an immediate, and before every change. -/
theorem invalidConditionFaultsExactly : Obligations.InvalidConditionFaultsExactly := by
  intro i s t hs h
  obtain ⟨hexact, hstate⟩ := exec_faults_exactly (by decide) firstFault_invalidCondition_iff hs h
  exact ⟨hexact, fun hsel himm => hstate ⟨hsel, himm⟩⟩

/-- Settles O37: no earlier check stops an access out of bounds, and its own check precedes every change. -/
theorem dataSegmentationFaultsExactly : Obligations.DataSegmentationFaultsExactly :=
  fun _ _ _ hs h => exec_faults_exactly (by decide) firstFault_dataSegmentation_iff hs h

/-- Settles O38: it is the last condition in the order, and the adjusted pointer is kept with the record. -/
theorem stackSegmentationFaultsExactly : Obligations.StackSegmentationFaultsExactly := by
  intro i s t hs h
  refine ⟨by rw [exec_faultKind hs h, firstFault_stackSegmentation_iff], fun ht => ?_⟩
  obtain ⟨u, hf, rfl⟩ := faults_of_faultKind hs h ht
  obtain ⟨p, hp, rfl⟩ := hf.pointer_adjusted
  exact ⟨p, hp, getReg_setReg_same s Config.sp p, rfl⟩

/-! ### The fault of a step -/

section StepFault

variable {s t : State}

@[simp] theorem debugHook_faultKind (s : State) : (debugHook s).faultKind = s.faultKind := by
  obtain ⟨d, n, h⟩ := debugHook_eq s; rw [h]

@[simp] theorem debugHook_faultAddr (s : State) : (debugHook s).faultAddr = s.faultAddr := by
  obtain ⟨d, n, h⟩ := debugHook_eq s; rw [h]

/-- The invariant allows a fault record in FAULTED only (60_exceptions.md R157). -/
theorem Inv.no_record (hs : Inv s) (hr : s.run ≠ .faulted) : s.faultKind = none := by
  rwa [Ne, hs.record, Bool.not_eq_true, Option.isSome_eq_false_iff, Option.isNone_iff_eq_none] at hr

/-- From a state without a record, an instruction ends in FAULTED exactly if it records a fault, which is then
recorded with the instruction's own address (60_exceptions.md R157). -/
theorem exec_record (hr : s.run ≠ .faulted) (hs : s.faultKind = none) {i : Instr} (h : exec i s = .next t) :
    (t.run = .faulted ↔ t.faultKind.isSome = true) ∧ (t.run = .faulted → t.faultAddr = s.pc - 1) := by
  obtain hc | ⟨k, u, hf, rfl⟩ := exec_next_iff.1 h
  · obtain ⟨hkind, -⟩ := hc.record_eq
    have hrun := hc.not_faulted hr
    exact ⟨by simp [hrun, hkind, hs], fun ht => absurd ht hrun⟩
  · exact ⟨by simp, fun _ => by rw [raise_faultAddr, hf.pc_eq]⟩

/-- No step leads on from a FAULTED state (10_state.md R20, D23). -/
theorem reaches_faulted (hr : s.run = .faulted) (h : Reaches s t) : t = s := by
  refine reaches_keeps (P := fun t => t = s) ?_ rfl h
  rintro _ u rfl hu
  obtain ⟨hrunning, -⟩ := step_next_cases hu
  simp [hr] at hrunning

end StepFault

/-- Settles O39: the failed fetch is a fault of its own, and a fetched word's fault is that of its instruction,
which the debug hook leaves as it is. -/
theorem stepTakesTheFirstFault : Obligations.StepTakesTheFirstFault := by
  intro s hinv hr
  obtain ⟨t, ht⟩ := runningCoreAlwaysSteps s hinv hr
  refine ⟨t, ht, ?_⟩
  obtain ⟨-, ⟨hout, rfl⟩ | ⟨w, u, hpc, hw, hu, rfl⟩⟩ := step_next_cases ht
  · rw [if_pos hout, raiseAt_faultKind]
  · have hs : (setPc (s.pc + 1) s).faultKind = none := hinv.no_record (by simp [hr])
    rw [if_neg (BitVec.not_le.2 hpc), hw, debugHook_faultKind, exec_faultKind hs hu]
    rfl

/-- Settles O41: the record is written by the fetch that fails, at `pc`, or by the instruction, at the advanced
`pc` less one; and no step follows. -/
theorem faultRecordIsLatched : Obligations.FaultRecordIsLatched := by
  refine ⟨fun s t hr hs h => ?_, fun s t hr h => reaches_faulted hr h⟩
  obtain ⟨-, ⟨-, rfl⟩ | ⟨w, u, -, -, hu, rfl⟩⟩ := step_next_cases h
  · exact ⟨by simp, fun _ => rfl⟩
  · have hrecord := exec_record (s := setPc (s.pc + 1) s) (by simp [hr]) hs hu
    simpa only [debugHook_run, debugHook_faultKind, debugHook_faultAddr, setPc_pc, BitVec.add_sub_cancel]
      using hrecord

/-! ### The exit report -/

/-- The code 0 is left to NONE (60_exceptions.md R150, D15). -/
theorem faultKindCode_eq_zero_iff (k : Option FaultKind) : faultKindCode k = 0 ↔ k = none := by
  cases k with
  | none => simp [faultKindCode]
  | some k => cases k <;> simp [faultKindCode, FaultKind.code]

theorem exitOk_halted {s : State} (hr : s.run = .halted) : exitOk s = some true := by rw [exitOk, hr]

theorem exitOk_faulted {s : State} (hr : s.run = .faulted) : exitOk s = some false := by rw [exitOk, hr]

/-- Settles O57: by the invariant HALTED has no fault record and FAULTED has one. -/
theorem exitReportTellsHaltFromFault : Obligations.ExitReportTellsHaltFromFault := by
  intro s hinv
  refine ⟨fun hr => ?_, fun hr => ?_⟩
  · have hok := exitOk_halted hr
    have hnone : s.faultKind = none := hinv.no_record (by simp [hr])
    exact ⟨hok, by rw [exitStatus, hok]; rfl, (faultKindCode_eq_zero_iff _).2 hnone⟩
  · have hok := exitOk_faulted hr
    have hsome : s.faultKind ≠ none := Option.isSome_iff_ne_none.1 (hinv.record.1 hr)
    exact ⟨hok, ⟨Config.exitFailStatus, by rw [exitStatus, hok]; rfl, Nat.succ_ne_zero _⟩,
      mt (faultKindCode_eq_zero_iff _).1 hsome⟩

end Sys2Proof.Safety

/-! PROOFS. The host's side: a load, the program image, and the debugger beside a run
(70_reset_and_hazards.md). -/

namespace Sys2Proof.Safety

open Sys2Proof.Machine

/-! ### The debugger beside a run -/

/-- The state with another debug flag and another hook count. -/
def withDebugger (d : Bool) (n : Nat) (s : State) : State := { s with dbg := d, hooks := n }

section WithDebugger

variable {i : Instr} {s s' t u : State} {k : FaultKind} (d : Bool) (n : Nat)

theorem SameButDebugger.exists_withDebugger (h : SameButDebugger s s') : ∃ d n, s' = withDebugger d n s := by
  have hsame : withDebugger false 0 s' = withDebugger false 0 s := h.symm
  have hrestored := congrArg (withDebugger s'.dbg s'.hooks) hsame
  exact ⟨s'.dbg, s'.hooks, hrestored⟩

theorem SameButDebugger.run_eq (h : SameButDebugger s s') : s'.run = s.run := by
  obtain ⟨d, n, rfl⟩ := h.exists_withDebugger; rfl

@[simp] theorem withDebugger_datasize (s : State) : (withDebugger d n s).datasize = s.datasize := rfl

/-- The hook writes nothing but what the debugger owns (R185, D17). -/
theorem debugHook_sameButDebugger (s : State) : SameButDebugger (debugHook s) s := by
  obtain ⟨d, n, h⟩ := debugHook_eq s
  rw [h]; rfl

@[simp] theorem effectiveAddress_withDebugger (m : Address) (s : State) :
    effectiveAddress m (withDebugger d n s) = effectiveAddress m s := by
  cases m <;> rfl

@[simp] theorem operandValue_withDebugger (o : Operand) (s : State) :
    operandValue o (withDebugger d n s) = operandValue o s := by
  cases o with
  | imm v => rfl
  | mem m => rw [operandValue, effectiveAddress_withDebugger]; rfl

/-- No instruction that completes reads the debug flag or the hook count. Where the state left holds an effective
address, the split on the address shows that it is the same one. -/
theorem Completes.withDebugger (h : Completes i s t) :
    Completes i (withDebugger d n s) (withDebugger d n t) := by
  cases h with
  | nop => exact .nop
  | halt => exact .halt
  | load hv => exact .load (by simpa using hv)
  | add hv => exact .add (by simpa using hv)
  | sub hv => exact .sub (by simpa using hv)
  | @store _ m _ he => cases m <;> exact .store he
  | @branchTaken _ m _ hc => cases m <;> exact .branchTaken hc
  | branchPassed hc => exact .branchPassed hc
  | @callTaken _ m _ hc hp => cases m <;> exact .callTaken hc hp
  | callPassed hc => exact .callPassed hc
  | ret hp => exact .ret hp
  | push hv hp => exact .push (by simpa using hv) hp
  | @pop m _ he hp => cases m <;> exact .pop he hp

/-- No check of an instruction reads the debug flag or the hook count. -/
theorem Faults.withDebugger (h : Faults i s k u) :
    Faults i (withDebugger d n s) k (withDebugger d n u) := by
  cases h with
  | illop => exact .illop
  | unknown12to15 => exact .unknown12to15
  | unknown16to31 => exact .unknown16to31
  | unknown32to63 => exact .unknown32to63
  | loadBounds hv => exact .loadBounds (by simpa using hv)
  | addBounds hv => exact .addBounds (by simpa using hv)
  | subBounds hv => exact .subBounds (by simpa using hv)
  | storeImmediate => exact .storeImmediate
  | storeBounds he => exact .storeBounds (by simpa using he)
  | branchImmediate => exact .branchImmediate
  | branchCondition hc => exact .branchCondition hc
  | callImmediate => exact .callImmediate
  | callCondition hc => exact .callCondition hc
  | callStack hc hp => exact .callStack hc hp
  | retStack hp => exact .retStack hp
  | pushBounds hv => exact .pushBounds (by simpa using hv)
  | pushStack hv hp => exact .pushStack (by simpa using hv) hp
  | popImmediate => exact .popImmediate
  | popBounds he => exact .popBounds (by simpa using he)
  | popStack he hp => exact .popStack (by simpa using he) hp

theorem exec_withDebugger (h : exec i s = .next t) :
    exec i (withDebugger d n s) = .next (withDebugger d n t) := by
  obtain hc | ⟨k, u, hf, rfl⟩ := exec_next_iff.1 h
  · exact exec_of_completes (hc.withDebugger d n)
  · exact exec_of_faults (hf.withDebugger d n)

end WithDebugger

/-- Two outcomes of the same kind, for the same reason or with next states that differ at most in what the
debugger owns. -/
inductive SameOutcome : Host.Outcome State Fault Refusal → Host.Outcome State Fault Refusal → Prop where
  | next {t t' : State} : SameButDebugger t t' → SameOutcome (.next t) (.next t')
  | fault (r : Fault) : SameOutcome (.fault r) (.fault r)
  | refused (r : Refusal) : SameOutcome (.refused r) (.refused r)

section SameOutcome

variable {s s' : State}

/-- The same instruction executes, and each of the two hooks changes its own debugger's fields only. -/
theorem runWord_sameOutcome (w : Word) (d : Bool) (n : Nat) :
    SameOutcome (runWord w s) (runWord w (withDebugger d n s)) := by
  obtain ⟨t, ht⟩ := exec_answers_next (decode w) (setPc (s.pc + 1) s)
  have ht' := exec_withDebugger d n ht
  rw [runWord_next ht, runWord_next (s := withDebugger d n s) ht']
  have hhook := debugHook_sameButDebugger t
  have hhook' := debugHook_sameButDebugger (withDebugger d n t)
  exact .next (hhook.trans hhook'.symm)

theorem step_eq_textMissing (hr : s.run = .running) (hpc : s.pc < s.textsize) (hw : textRead s.pc s = none) :
    step s = .refused .textMissing := by
  simp [step, hr, runStep, BitVec.not_le.2 hpc, hw]

/-- A step distinguishes two debuggers in their own fields only: the run state, the fetch bound and the fetched
word are the same. -/
theorem step_sameOutcome (h : SameButDebugger s s') : SameOutcome (step s) (step s') := by
  obtain ⟨d, n, rfl⟩ := h.exists_withDebugger
  obtain ⟨hhalted, hfaulted, hempty⟩ := stepIsDefinedOnlyWhileRunning (withDebugger d n s)
  obtain ⟨hr, hs⟩ | ⟨hr, hs⟩ | ⟨hr, hs⟩ | ⟨hr, hpc, hs⟩ | ⟨hr, hpc, hw, hs⟩ | ⟨w, hr, hpc, hw, hs⟩ := step_cases s
  · rw [hs, hempty hr]
    exact .refused _
  · rw [hs, hhalted hr]
    exact .fault _
  · rw [hs, hfaulted hr]
    exact .fault _
  · rw [hs, step_eq_textSegmentation (s := withDebugger d n s) hr hpc]
    exact .next rfl
  · rw [hs, step_eq_textMissing (s := withDebugger d n s) hr hpc hw]
    exact .refused _
  · rw [hs, step_eq_runWord (s := withDebugger d n s) hr hpc hw]
    exact runWord_sameOutcome w d n

/-- Both runs stop at the same point: `drive` looks at the run state only, which no debugger owns. -/
theorem drive_sameOutcome (k : Nat) (h : SameButDebugger s s') : SameOutcome (drive k s) (drive k s') := by
  induction k generalizing s s' with
  | zero => exact .next h
  | succ k ih =>
    by_cases hr : s.run = .running
    · have hstep := step_sameOutcome h
      simp only [drive, hr, h.run_eq, if_true]
      generalize step s = o, step s' = o' at hstep
      cases hstep with
      | next hnext => exact ih hnext
      | fault r => exact .fault r
      | refused r => exact .refused r
    · simp only [drive, hr, h.run_eq, if_false]
      exact .next h

end SameOutcome

/-- Settles O19: the relation is kept by every step, hence by any number of them. -/
theorem debuggerDoesNotChangeTheRun : Obligations.DebuggerDoesNotChangeTheRun := by
  intro k s s' h
  have hdrive := drive_sameOutcome k h
  generalize drive k s = o, drive k s' = o' at hdrive
  cases hdrive with
  | next hnext => exact hnext
  | fault r | refused r => rfl

/-- Settles O21: no instruction touches the debugger, and the hook then decides on the run state it was left in. -/
theorem hookIsRaisedWhileRunning : Obligations.HookIsRaisedWhileRunning := by
  intro s t h hd
  obtain ⟨-, ⟨-, rfl⟩ | ⟨w, u, -, -, hu, rfl⟩⟩ := step_next_cases h
  · exact ⟨fun hr => by simp at hr, fun _ => ⟨rfl, hd⟩⟩
  · obtain ⟨-, -, -, -, hdbg, hepoch, hhooks⟩ := exec_sameSurroundings hu
    simp only [setPc_dbg, setPc_epoch, setPc_hooks] at hdbg hepoch hhooks
    rw [debugHook_run, ← hepoch, ← hhooks]
    obtain ⟨hr, -, hhook⟩ | ⟨hoff, hhook⟩ := debugHook_cases u
    · rw [hhook]
      exact ⟨fun _ => ⟨rfl, rfl⟩, fun hn => absurd hr hn⟩
    · rw [hhook]
      exact ⟨fun hr => absurd ⟨hr, hdbg.trans hd⟩ hoff, fun _ => ⟨rfl, hdbg.trans hd⟩⟩

/-! ### A load -/

/-- What a load leaves: the reset state, with the image's limits, memories and stack pointer in place of the
empty image's (R175; 10_state.md R27). -/
def loadedState (img : Image) (attached : Bool) (epoch : Nat) : State :=
  { State.reset with
    regs := regsAfterLoad img.datasize, textsize := img.textsize, datasize := img.datasize,
    dataend := img.dataend, dbg := attached, text := Memory.ofWords 0 img.text,
    data := Memory.ofWords 0 img.data, epoch }

section Load

variable {img : Image} {s t : State} {attached : Bool}

/-- The preconditions of R178. -/
theorem image_valid_iff : img.valid = true ↔
    img.dataend ≤ img.datasize ∧ img.text.length = img.textsize.toNat ∧
      (img.data.length = img.datasize.toNat ∨ img.data.length = img.dataend.toNat) := by
  simp [Image.valid, and_assoc]

theorem load_of_valid (hv : img.valid = true) (attached : Bool) (s : State) :
    State.load img attached s = .next (loadedState img attached (s.epoch + 1)) := by
  rw [State.load, if_pos hv]
  rfl

theorem load_of_not_valid (hv : ¬ img.valid = true) (attached : Bool) (s : State) :
    State.load img attached s = .refused .badImage := if_neg hv

theorem load_eq_next_iff :
    State.load img attached s = .next t ↔ img.valid = true ∧ t = loadedState img attached (s.epoch + 1) := by
  by_cases hv : img.valid = true
  · simp [load_of_valid hv, hv, eq_comm]
  · simp [load_of_not_valid hv, hv]

theorem getReg_sp_of_load {d : Word} (h : s.regs = regsAfterLoad d) : getReg Config.sp s = d - 1 := by
  simp [getReg, h, regsAfterLoad]

theorem getReg_other_of_load {d : Word} {r : Reg} (h : s.regs = regsAfterLoad d) (hr : r ≠ Config.sp) :
    getReg r s = 0 := by
  have hne : (Config.sp : Nat) ≠ (r : Nat) := fun e => hr (Fin.ext e.symm)
  simp [getReg, h, regsAfterLoad, Vector.getElem_set_ne, hne]

theorem memRead_of_installed {ws : List Word} (e : Word) (h : s.data = Memory.ofWords 0 ws)
    (he : e.toNat < ws.length) : some (memRead e s) = ws[e.toNat]? := by
  have hread := Memory.read_ofWords 0 ws e.toNat
  rw [Nat.zero_add, List.getElem?_eq_getElem he] at hread
  rw [memRead, h, hread, Option.getD_some, List.getElem?_eq_getElem he]

/-- The data words of a valid image fit below `datasize`. -/
theorem data_length_le_of_valid (hv : img.valid = true) : img.data.length ≤ img.datasize.toNat := by
  obtain ⟨hlimits, -, hall | hstatic⟩ := image_valid_iff.1 hv
  · exact hall.le
  · exact hstatic.trans_le (BitVec.le_def.1 hlimits)

theorem inv_loadedState (hv : img.valid = true) (attached : Bool) (epoch : Nat) :
    Inv (loadedState img attached epoch) := by
  obtain ⟨hlimits, htext, -⟩ := image_valid_iff.1 hv
  exact
    { limits := hlimits
      textForm := Memory.ofWords_wf 0 _
      dataForm := Memory.ofWords_wf 0 _
      textBelow := fun c hc => by
        obtain ⟨-, hbelow⟩ := Memory.mem_ofWords hc
        rwa [Nat.zero_add, htext] at hbelow
      dataBelow := fun c hc => by
        obtain ⟨-, hbelow⟩ := Memory.mem_ofWords hc
        rw [Nat.zero_add] at hbelow
        exact hbelow.trans_le (data_length_le_of_valid hv)
      textFull := fun a ha => by
        rw [textRead_of_installed a rfl, isSome_getElem?, htext]
        exact BitVec.lt_def.1 ha
      record := by simp [loadedState, State.reset] }

end Load

/-- Settles O8: the loaded state is a function of the image, the flag and the load counter. -/
theorem loadInstallsTheImageAndResets : Obligations.LoadInstallsTheImageAndResets := by
  intro img attached s hlimits htext hdata
  have hload := load_of_valid (image_valid_iff.2 ⟨hlimits, htext, hdata⟩) attached
  refine ⟨_, hload s, rfl, rfl, rfl, fun a _ => textRead_of_installed a rfl,
    fun e he => memRead_of_installed e rfl he, fun r hr => getReg_other_of_load rfl hr,
    getReg_sp_of_load rfl, rfl, rfl, rfl, rfl, rfl, fun s' => ⟨_, hload s', rfl⟩⟩

/-- Settles O10: a load answers a next state for a valid image only. -/
theorem loadEstablishesTheInvariant : Obligations.LoadEstablishesTheInvariant := by
  intro img attached s t h
  obtain ⟨hv, rfl⟩ := load_eq_next_iff.1 h
  exact inv_loadedState hv attached _

/-- Settles O9: each broken precondition contradicts its part of the check. -/
theorem loadRefusesABrokenImage : Obligations.LoadRefusesABrokenImage := by
  intro img attached s hbroken
  refine load_of_not_valid (fun hv => ?_) attached s
  obtain ⟨hlimits, htext, hdata⟩ := image_valid_iff.1 hv
  obtain hlt | hne | ⟨hall, hstatic⟩ := hbroken
  · exact BitVec.not_lt.2 hlimits hlt
  · exact hne htext
  · exact hdata.elim hall hstatic

/-- Settles O12: `textsize` marks where the text words end and the data words begin. -/
theorem imageWordsRoundTrip : Obligations.ImageWordsRoundTrip := by
  intro img h
  rw [Image.toWords, Image.ofWords, List.take_left' h, List.drop_left' h]

end Sys2Proof.Safety
